-- ==== Sys2Proof/Word.lean ====
section
/-! DEFINITION. The words of the machine: bytes, command words, the framebuffer, the two index spaces and a LUT entry. -/

namespace Sys2Proof

/-- A byte: a framebuffer bank, a bus byte, the button sample. Bit k has weight 2^k (R12, R57). -/
abbrev Byte := BitVec 8

/-- A 16-bit word of the command port, command or response (R80, R82). -/
abbrev CmdWord := BitVec 16

/-- The light index space [0, 64) (R36 (1), R51). -/
abbrev LightIdx := Fin 64

/-- The LUT index space [0, 61) (R36 (2), R54). -/
abbrev LutIdx := Fin 61

/-- The framebuffer: "an ordered sequence of 8 banks (bytes)" (R22). -/
abbrev Fb := Vector Byte 8

/-- One LUT entry: three int16 components in units of 10^-4, in the order x, y, z (R58, R130).
The bits are read as two's complement by `BitVec.toInt`. -/
structure LutEntry where
  x : BitVec 16
  y : BitVec 16
  z : BitVec 16
deriving DecidableEq, Repr, Inhabited

/-- The look-up table of 61 light positions (R24). -/
abbrev Lut := Vector LutEntry 61

/-- Level of an output line (R25, R26). -/
inductive Level where
  /-- L, the active level of a latch pulse -/
  | low
  /-- H, the idle level -/
  | high
deriving DecidableEq, Repr, Inhabited

/-- The environment's answer to `BusWrite` (R15): Ok, Fail, or no answer ever (a hang). -/
inductive WriteAnswer where
  | ok
  | fail
  | never
deriving DecidableEq, Repr, Inhabited

/-- The environment's answer to `BusXfer` (R15): Ok with the byte received, Fail, or no answer ever. -/
inductive XferAnswer where
  | ok (received : Byte)
  | fail
  | never
deriving DecidableEq, Repr, Inhabited

/-- What the platform does next while RESET is asserted (R203). -/
inductive PlatformAct where
  /-- it provides (1), the bus PHY clocked -/
  | clock
  /-- it provides (2), the two latch outputs -/
  | latchOutputs
  /-- it provides (3), the bus primitives able to answer -/
  | busService
  /-- it provides nothing: so forever is a platform that cannot meet R203 (R208) -/
  | nothing
deriving DecidableEq, Repr, Inhabited

end Sys2Proof
end

