-- ==== Sys2Proof/Syntax.lean ====
section
/-! DEFINITION. The command set, one constructor per row of spec/opcode_table.json (R84), and the causes of an
illegal command (R172). -/

namespace Sys2Proof

/-- The five commands of the CU. An operand is the 6-bit IDX field (R83). -/
inductive Instr where
  /-- `SETL i`: set light i (R100). Every 6-bit index is legal. -/
  | setl (i : LightIdx)
  /-- `CLR`: clear the framebuffer (R101). -/
  | clr
  /-- `DRAW`: flush the framebuffer to the LED driver chain (R110). -/
  | draw
  /-- `RDBTN`: read the button byte (R114). -/
  | rdbtn
  /-- `PROX c`: proximity burst around entry c (R138). Legal for c < 61 only: see `Instr.wf`. -/
  | prox (c : LightIdx)
deriving DecidableEq, Repr

/-- Why a command word is illegal (R172). -/
inductive Cause where
  /-- 0x01: OP is 0x0 or 0x6..0xF -/
  | reservedOp
  /-- 0x02: RSV is not 0, or IDX is not 0 where no operand is taken -/
  | reservedField
  /-- 0x03: PROX with a centre that has no LUT entry -/
  | noLutEntry
deriving DecidableEq, Repr

end Sys2Proof
end

