-- ==== Sys2Proof/WellFormed.lean ====
section
/-! DEFINITION. Which terms of `Instr` are legal commands (R83, R85). -/

namespace Sys2Proof

/-- A legal command: the one check the type does not make is that PROX's centre has a LUT entry (R83, R85). -/
def Instr.wf : Instr → Bool
  | .setl _ => true
  | .clr => true
  | .draw => true
  | .rdbtn => true
  | .prox c => c.val < 61

end Sys2Proof
end

