-- ==== Sys2Proof/Decode.lean ====
section
/-! DEFINITION. The decoder of R86, total on 16-bit words, and the encoder of R84. -/

namespace Sys2Proof

/-- What a command word decodes to (R86). -/
inductive Decoded where
  | legal (i : Instr)
  | illegal (c : Cause)
deriving DecidableEq, Repr

/-- Field `OP`, bits 15:12 (R80). -/
def opField (w : CmdWord) : BitVec 4 := w.extractLsb' 12 4

/-- Field `RSV`, bits 11:6 (R80). -/
def rsvField (w : CmdWord) : BitVec 6 := w.extractLsb' 6 6

/-- Field `IDX`, bits 5:0, an unsigned number (R80, R83). -/
def idxField (w : CmdWord) : LightIdx := (w.extractLsb' 0 6).toFin

/-- The operation an `OP` value names, before the other fields are checked (R84). -/
inductive Op where
  | setl
  | clr
  | draw
  | rdbtn
  | prox
deriving DecidableEq, Repr

/-- The opcode map (R84): 0x0 and 0x6..0xF name nothing. -/
def opOf (op : BitVec 4) : Option Op :=
  if op = 0x1 then some .setl
  else if op = 0x2 then some .clr
  else if op = 0x3 then some .draw
  else if op = 0x4 then some .rdbtn
  else if op = 0x5 then some .prox
  else none

/-- A command that takes no operand: IDX must be 0 (R83, R86). -/
def noOperand (i : Instr) (idx : LightIdx) : Decoded :=
  if idx = 0 then .legal i else .illegal .reservedField

/-- The decoder (R86): the checks in the order of the rule, which is the cause priority of R173. -/
def decode (w : CmdWord) : Decoded :=
  match opOf (opField w) with
  | none => .illegal .reservedOp
  | some op =>
    if rsvField w ≠ 0 then .illegal .reservedField
    else match op with
      | .setl => .legal (.setl (idxField w))
      | .clr => noOperand .clr (idxField w)
      | .draw => noOperand .draw (idxField w)
      | .rdbtn => noOperand .rdbtn (idxField w)
      | .prox => if (idxField w).val < 61 then .legal (.prox (idxField w)) else .illegal .noLutEntry

/-- A word with `OP` and `IDX` given and `RSV` = 0 (R80). -/
def commandWord (op : BitVec 4) (idx : LightIdx) : CmdWord :=
  op ++ (0 : BitVec 6) ++ (BitVec.ofFin idx : BitVec 6)

/-- The word of a command (R84). -/
def encode : Instr → CmdWord
  | .setl i => commandWord 0x1 i
  | .clr => commandWord 0x2 0
  | .draw => commandWord 0x3 0
  | .rdbtn => commandWord 0x4 0
  | .prox c => commandWord 0x5 c

/-- The cause code of R172. -/
def causeCode : Cause → Byte
  | .reservedOp => 0x01
  | .reservedField => 0x02
  | .noLutEntry => 0x03

/-- The command word that a table row's `nbits` low bits of `w` stand for: every command is one 16-bit word (R87). -/
def tableWord (nbits w : Nat) : CmdWord := BitVec.ofNat 16 (w % 2 ^ nbits)

/-- What the decoder reads from a row of spec/opcode_table.json. There is no encoding longer than 16 bits (R87). -/
def decodeTableWord (nbits w : Nat) : Option Instr :=
  if nbits ≤ 16 then
    match decode (tableWord nbits w) with
    | .legal i => some i
    | .illegal _ => none
  else none

end Sys2Proof
end

