-- ==== Sys2Proof/Config.lean ====
section
/-! DEFINITION. What one build or one platform fixes (R9, R11), and the free values. A constant without a body is
open in the spec: no proof can use a value of it. -/

namespace Sys2Proof.Config

/-! ### Sizes the source fixes (R9) -/

/-- `N_LIGHTS`: LUT entries and scan modulus. -/
def nLights : Nat := 61

/-- `N_SLOTS`: addressable framebuffer bits. -/
def nSlots : Nat := 64

/-- `N_BANKS` -/
def nBanks : Nat := 8

/-- `BANK_BITS` -/
def bankBits : Nat := 8

/-! ### Free draws of the environment, under no law (R15; 93 U1, U2, U4, U5, U6; log 1, log 2) -/

/-- How the environment answers the BusWrite that is its n-th free draw. -/
opaque writeAnswer : Nat → WriteAnswer

/-- How the environment answers the BusXfer that is its n-th free draw. -/
opaque xferAnswer : Nat → XferAnswer

/-- What the platform does in the n-th free draw, while RESET is asserted (R203, R208; log 6). -/
opaque platformAct : Nat → PlatformAct

/-- `LED_OUT` where the spec lets it take any value: after a failed write (R112) and after a reset inside the LED pulse (R201). -/
opaque ledOutFree : Nat → Fb

/-- `LED_OUT` at power-on, which belongs to the external driver (R202). -/
opaque ledOutAtPowerOn : Fb

/-! ### Open parameters (R11; log 3, log 16) -/

/-- `GEOM[2..60]`: the LUT entries no source gives (R132). -/
opaque geomTail : Vector LutEntry 59

/-- `FRAME_DELAY_MS` (R154) -/
opaque frameDelayMs : Nat

/-- `BUS_CLK_HZ`: no rule depends on it. -/
opaque busClkHz : Nat

/-- Order in which the PHY shifts the bits of a byte (R56). -/
inductive BitOrder where
  | msbFirst
  | lsbFirst
deriving DecidableEq, Repr, Inhabited

/-- `BUS_BIT_ORDER`: the wire's bit order with its clock mode (polarity, phase), a matter of the PHY (R56). -/
structure WireMode where
  order    : BitOrder
  polarity : Bool
  phase    : Bool
deriving DecidableEq, Repr, Inhabited

/-- `BUS_BIT_ORDER`: no rule of the CU depends on it. -/
opaque busBitOrder : WireMode

/-- `T_LAT_LOW_MIN`, in nanoseconds: no rule depends on it (R205). -/
opaque tLatLowMin : Nat

/-- `T_LAT_SETUP`, in nanoseconds: no rule depends on it (R205). -/
opaque tLatSetup : Nat

/-- `WIRING`: the physical light that framebuffer bit (bank, bit) drives (R56). -/
opaque wiring : Fin 8 → Fin 8 → Nat

end Sys2Proof.Config
end

