-- ==== Sys2Proof/Machine/Geometry.lean ====
section
/-! DEFINITION. The contents of the LUT: the two entries the source gives (R131), the rest from GEOM (R132). -/

namespace Sys2Proof.Machine

/-- LUT entry 0, `[-0.8944, 0, 0.4473]` (R131). -/
def sourceEntry0 : LutEntry := ⟨BitVec.ofInt 16 (-8944), 0, BitVec.ofInt 16 4473⟩

/-- LUT entry 1, `[-0.8375, -0.1752, 0.1491]` (R131), kept as given although its norm is not 1 (90 C2). -/
def sourceEntry1 : LutEntry := ⟨BitVec.ofInt 16 (-8375), BitVec.ofInt 16 (-1752), BitVec.ofInt 16 1491⟩

/-- A table with the source's two entries and any other 59 (R131, R132). -/
def lutOf (tail : Vector LutEntry 59) : Lut :=
  ⟨⟨sourceEntry0 :: sourceEntry1 :: tail.toList⟩, by simp⟩

/-- The table this build holds, with the open parameter GEOM (R132; log 3). -/
def geometryTable : Lut := lutOf Config.geomTail

end Sys2Proof.Machine
end

