-- ==== Sys2Proof/Machine/State.lean ====
section
/-! DEFINITION. The state of the machine as R20 lists it, the ports of R184, the model's own records (R38, R175), and the
reset state of R200. Plain data throughout. -/

namespace Sys2Proof.Machine

/-- Phase of the CU's sequencer (R28), with the hidden state of R37 that lives in it. -/
inductive SeqPhase where
  /-- `IDLE`: ready for a command -/
  | idle
  /-- `W_WRITE`: DRAW, waiting for BusWrite. It holds the snapshot of FB (R37 (b), R110). -/
  | wWrite (snapshot : Fb)
  /-- `W_LEDLO`: DRAW, LED_LAT driven L. `written` says whether the write answered Ok (R112). -/
  | wLedlo (snapshot : Fb) (written : Bool)
  /-- `R_BTNLO`: RDBTN, BTN_LAT driven L -/
  | rBtnlo
  /-- `R_XFER`: RDBTN, waiting for BusXfer -/
  | rXfer
  /-- `P_SCAN(k)`: PROX around `centre`, evaluating entry `k` (R37 (c)) -/
  | pScan (centre k : LutIdx)
  /-- `DONE`: the response is being returned. The response word exists here only (R29, R34). -/
  | done (response : CmdWord)
deriving DecidableEq, Repr

/-- `FC.PHASE`, the Frame Controller's program counter (R32). Its 3-bit values are `fcPhaseCode`; 6 and 7 cannot
be spelled (93 U19; log 18). -/
inductive FcPhase where
  | sample
  | fill
  | flush
  | wait
  | clear
  | advance
deriving DecidableEq, Repr

/-- Who drives the command port: exactly one client at a time (R162, D37; log 4). -/
inductive Client where
  /-- the Frame Controller, the reference client (R3) -/
  | frameController
  /-- a test harness in its place (R162): the words it will still offer, the next one first, and the responses it has taken,
  oldest first (R186; log 5) -/
  | harness (offers responses : List CmdWord)
deriving DecidableEq, Repr

/-- The environment's answers (R15). A script says how it answers the next transactions; a transaction past the end of the
script is answered by a free draw (`Config.writeAnswer`, `Config.xferAnswer`), numbered by `draws` (log 1). What the platform does
under RESET has the same form (`Config.platformAct`; log 6). -/
structure Env where
  writes : List WriteAnswer
  xfers  : List XferAnswer
  boots  : List PlatformAct
  draws  : Nat
deriving DecidableEq, Repr

/-- How far the platform has come up, in the order of R203: "(1), then (2) and (3), then the release of reset". -/
inductive Platform where
  /-- nothing is provided yet -/
  | down
  /-- (1) the bus PHY is clocked; the flags say whether (2) the two latch outputs are driven and (3) the bus primitives are
  able to answer -/
  | clocked (latchOutputs busService : Bool)
deriving DecidableEq, Repr

/-- One entry of the record of bus transactions and latch edges (R38 (a), R117; log 9). A transaction has one entry when it is
issued and one when it is answered; a hung transaction has only the first. -/
inductive Event where
  /-- `W(bytes)`: the 8-byte write is issued, first byte first -/
  | write (bytes : List Byte)
  | writeOk
  | writeFail
  /-- `X(t)`: the full-duplex transfer of one byte is issued -/
  | xfer (sent : Byte)
  | xferOk (received : Byte)
  | xferFail
  /-- L↓ -/
  | ledFall
  /-- L↑ -/
  | ledRise
  /-- B↓ -/
  | btnFall
  /-- B↑ -/
  | btnRise
  /-- `Delay(ms)`, the FC's request to the DelayService (R154) -/
  | delay (ms : Nat)
deriving DecidableEq, Repr

/-- A recorded fault (R175): the illegal word and the cause its response gave. -/
structure IllegalCommand where
  word  : CmdWord
  cause : Cause
deriving DecidableEq, Repr

/-- The state of the machine (R20), its ports (R184) and the model's own records. -/
structure State where
  /-- `FB[0..7]` (R22) -/
  fb : Fb
  /-- `LUT[0..60]`, a ROM (R24) -/
  lut : Lut
  /-- `LED_LAT` output level (R25) -/
  ledLat : Level
  /-- `BTN_LAT` output level (R26) -/
  btnLat : Level
  /-- the sequencer phase (R28) -/
  phase : SeqPhase
  /-- `FC.SCAN`, 0..60 (R30; log 18) -/
  scan : LutIdx
  /-- `FC.SAMPLE` (R31) -/
  sample : Byte
  /-- `FC.PHASE` (R32) -/
  fcPhase : FcPhase
  /-- the RESET input is asserted (R184, R200; log 6). Nothing in the machine asserts it (DESIGN CHOICE, log 19). -/
  resetPin : Bool
  /-- how far the platform has come up (R203; log 6) -/
  platform : Platform
  /-- who drives the CMD port (log 4) -/
  client : Client
  /-- the environment's answers (R15; log 1) -/
  env : Env
  /-- record: bus transactions and latch edges, oldest first (R38 (a); log 9) -/
  trace : List Event
  /-- record: `LED_OUT`, the word the last latch pulse committed (R38 (b), R112; log 2) -/
  ledOut : Fb
  /-- the fault set, in order of first occurrence, no repeats (R175) -/
  faults : List IllegalCommand
deriving DecidableEq, Repr

/-- Why the model has no step. Neither is an error of the hardware: the one error the spec names (R170) is a next state. -/
inductive Fault where
  /-- Raised by the sequencer (`advance`, hence `step` and `tick`) when a bus primitive never answers: the hang of R119 and R177,
  "A model has no step for either agent in that state". Safe: the model stops where the hardware waits forever. -/
  | busHang
  /-- Raised by a meaning (`accept`) when its command is offered while the CU is not IDLE: the offer waits (R81, 93 U20).
  Safe: the model stops where the hardware holds the offer off. `step` never offers a command then. -/
  | heldOff
deriving DecidableEq, Repr

/-- Why the model gives an instruction no meaning. -/
inductive Refusal where
  /-- Raised by an arm of `exec` whose instruction has no meaning yet. Safe. No arm does. -/
  | notModelled (mnemonic : String)
deriving DecidableEq, Repr

/-- What a step answers. -/
abbrev Outcome := Host.Outcome State Fault Refusal

/-- The machine right after reset, power-on included (R200, R202). The fields the spec gives no value for are named in
log 1, 2, 4, 6 and 9. -/
def State.reset : State where
  fb := Vector.replicate 8 0
  lut := geometryTable
  ledLat := .high
  btnLat := .high
  phase := .idle
  scan := 0
  sample := 0
  fcPhase := .sample
  resetPin := false
  platform := .clocked true true
  client := .frameController
  env := ⟨[], [], [], 0⟩
  trace := []
  ledOut := Config.ledOutAtPowerOn
  faults := []

end Sys2Proof.Machine
end

