-- ==== Sys2Proof/Machine/Operands.lean ====
section
/-! DEFINITION. The operand forms: the framebuffer address translator (R51), its inverse (R52), the bit of one light, and the
LUT index of PROX (R83). -/

namespace Sys2Proof.Machine

/-- `bank(i) = 7 - i/8` (R51). -/
def bankOf (i : LightIdx) : Fin 8 := ⟨7 - i.val / 8, by omega⟩

/-- `bit(i) = i mod 8` (R51). -/
def bitOf (i : LightIdx) : Fin 8 := ⟨i.val % 8, by omega⟩

/-- The inverse of the translation, `i = 8 * (7 - bank) + bit` (R52). -/
def lightOf (bank bit : Fin 8) : LightIdx := ⟨8 * (7 - bank.val) + bit.val, by omega⟩

/-- `FB[b][k]`, the bit of weight 2^k in bank b (R57). -/
def fbBit (fb : Fb) (bank bit : Fin 8) : Bool := fb[bank].getLsbD bit.val

/-- The framebuffer bit of light i (R51). -/
def lightBit (fb : Fb) (i : LightIdx) : Bool := fbBit fb (bankOf i) (bitOf i)

/-- The read-modify-write OR of one light's bit, the byte `1 << (i mod 8)` into `FB[7 - i/8]` (R57, R60, R100). -/
def setLight (fb : Fb) (i : LightIdx) : Fb :=
  fb.set (bankOf i) (fb[bankOf i] ||| (1#8 <<< (bitOf i).val))

/-- A framebuffer of all zero (R101). -/
def zeroFb : Fb := Vector.replicate 8 0x00#8

/-- LUT entry k is the position of the light with index k (R133). -/
def lightOfEntry (k : LutIdx) : LightIdx := ⟨k.val, by omega⟩

/-- PROX's operand as a LUT index: 0 to 60; 61 to 63 have no entry (R83). -/
def lutIndex (c : LightIdx) : Option LutIdx :=
  if h : c.val < 61 then some ⟨c.val, h⟩ else none

end Sys2Proof.Machine
end

