-- ==== Sys2Proof/Machine/Flags.lean ====
section
/-! DEFINITION. The machine has no flags (R33). Its one condition is bit 0 of the button sample; the response word carries the
one status bit, ERR (R82). -/

namespace Sys2Proof.Machine

/-- Bit 0 of the button sample, the "burst mode" flag; bits 1 to 7 are not read (R33, R116, R152). -/
def burstSelected (sample : Byte) : Bool := sample.getLsbD 0

/-- The response of a performed command: ERR = 0, bits 14:8 zero, DATA (R82). -/
def dataResponse (v : Byte) : CmdWord := (0x00#8 ++ v : BitVec 16)

/-- The response of a performed command without data, 0x0000 (R82). -/
def okResponse : CmdWord := 0x0000#16

/-- The error response `0x8000 | cause` (R171). -/
def errorResponse (cause : Byte) : CmdWord := 0x8000#16 ||| cause.setWidth 16

/-- Field `ERR`, bit 15 of a response (R82). -/
def errBit (rsp : CmdWord) : Bool := rsp.getLsbD 15

/-- Field `DATA`, bits 7:0 of a response (R82). -/
def dataField (rsp : CmdWord) : Byte := rsp.extractLsb' 0 8

end Sys2Proof.Machine
end

