-- ==== Sys2Proof/Machine/Ops.lean ====
section
/-! DEFINITION. The shared operations: the port (R81, R82), the illegal-command error (R171, R175), the two latch
lines (R14, R25, R26), the environment's answers (R15) and its records (R38, R112). -/

namespace Sys2Proof.Machine

/-! ### Outcomes -/

/-- Go on from a next state; a stop stays a stop. -/
def onNext (f : State → State) : Outcome → Outcome
  | .next s => .next (f s)
  | .fault r => .fault r
  | .refused r => .refused r

/-! ### The command port -/

/-- The CU accepts a command only in `IDLE` (R81). A command offered in another phase is held off: `exec` has no step then
(93 U20; log 11). -/
def accept (s : State) (run : State → State) : Outcome :=
  match s.phase with
  | .idle => .next (run s)
  | .wWrite _ => .fault .heldOff
  | .wLedlo _ _ => .fault .heldOff
  | .rBtnlo => .fault .heldOff
  | .rXfer => .fault .heldOff
  | .pScan _ _ => .fault .heldOff
  | .done _ => .fault .heldOff

/-- `rsp <- r`: the sequencer returns the response, in phase `DONE` (R14, R28). -/
def respond (r : CmdWord) (s : State) : State := { s with phase := .done r }

/-- The RSP port (R184): it carries a response while the command completes, in phase `DONE`, and at no other time (R29, R34). -/
def rspPort (s : State) : Option CmdWord :=
  match s.phase with
  | .done r => some r
  | .idle => none
  | .wWrite _ => none
  | .wLedlo _ _ => none
  | .rBtnlo => none
  | .rXfer => none
  | .pScan _ _ => none

/-- The response is taken: that ends the command and returns the sequencer to `IDLE` (R81). A CU that is returning none stays as
it is. -/
def endCommand (s : State) : State :=
  match rspPort s with
  | some _ => { s with phase := .idle }
  | none => s

/-! ### The one error: taking `IllegalCommand` (R170, R171, R174). There is no trap entry and no return (R179, R180). -/

/-- Record a fault; the fault set has no repeats and nothing but a reset empties it (R175, R200). -/
def recordFault (f : IllegalCommand) (s : State) : State :=
  { s with faults := if f ∈ s.faults then s.faults else s.faults ++ [f] }

/-- `IllegalCommand(cause)` on word `w`: no state changes and the response is `0x8000 | cause`, after which the CU is back in
`IDLE` (R171); the model records the fault (R175). -/
def illegalCommand (w : CmdWord) (cause : Cause) (s : State) : State :=
  respond (errorResponse (causeCode cause)) (recordFault ⟨w, cause⟩ s)

/-! ### Records -/

/-- Append to the record of transactions and edges (R38 (a)). -/
def record (es : List Event) (s : State) : State := { s with trace := s.trace ++ es }

/-- The edge, if any, that driving LED_LAT from one level to another makes. -/
def ledEdge : Level → Level → List Event
  | .high, .low => [.ledFall]
  | .low, .high => [.ledRise]
  | .low, .low => []
  | .high, .high => []

/-- The edge, if any, that driving BTN_LAT from one level to another makes. -/
def btnEdge : Level → Level → List Event
  | .high, .low => [.btnFall]
  | .low, .high => [.btnRise]
  | .low, .low => []
  | .high, .high => []

/-! ### Latch lines -/

/-- `pin(LED_LAT) <- l` (R14, R25). -/
def driveLed (l : Level) (s : State) : State :=
  record (ledEdge s.ledLat l) { s with ledLat := l }

/-- `pin(BTN_LAT) <- l` (R14, R26). -/
def driveBtn (l : Level) (s : State) : State :=
  record (btnEdge s.btnLat l) { s with btnLat := l }

/-! ### The environment's answers (R15; log 1) -/

/-- How the environment answers the BusWrite in progress. -/
def writeAnswerOf (e : Env) : WriteAnswer :=
  match e.writes with
  | a :: _ => a
  | [] => Config.writeAnswer e.draws

/-- How the environment answers the BusXfer in progress. -/
def xferAnswerOf (e : Env) : XferAnswer :=
  match e.xfers with
  | a :: _ => a
  | [] => Config.xferAnswer e.draws

/-- What the platform does next while RESET is asserted (R203). -/
def platformActOf (e : Env) : PlatformAct :=
  match e.boots with
  | a :: _ => a
  | [] => Config.platformAct e.draws

/-- One more free draw is used. -/
def afterDraw (e : Env) : Env := { e with draws := e.draws + 1 }

/-- The environment after a BusWrite is over, answered or cut by a reset. -/
def afterWrite (e : Env) : Env :=
  match e.writes with
  | _ :: as => { e with writes := as }
  | [] => afterDraw e

/-- The environment after a BusXfer is over, answered or cut by a reset. -/
def afterXfer (e : Env) : Env :=
  match e.xfers with
  | _ :: as => { e with xfers := as }
  | [] => afterDraw e

/-- The environment after the platform has acted. -/
def afterBoot (e : Env) : Env :=
  match e.boots with
  | _ :: as => { e with boots := as }
  | [] => afterDraw e

/-! ### LED_OUT (R112) -/

/-- `LED_OUT` takes any value: a free draw (R112 on Fail, R201; log 2). -/
def freeLedOut (s : State) : State :=
  { s with ledOut := Config.ledOutFree s.env.draws, env := afterDraw s.env }

/-- The commit at the rising edge of LED_LAT in a DRAW: the snapshot if the write answered Ok, else any value (R112). -/
def commitLed (snapshot : Fb) (written : Bool) (s : State) : State :=
  if written then { s with ledOut := snapshot } else freeLedOut s

end Sys2Proof.Machine
end

