-- ==== Sys2Proof/Machine/Bus.lean ====
section
/-! DEFINITION. The bus transaction sequencer and latch controller, DRAW and RDBTN (R110 to R120). Each event of the two
sequences is one definition, which the meanings below and the event-level machine (Sequencer.lean) share. -/

namespace Sys2Proof.Machine

/-! ### DRAW, event by event (R110) -/

/-- The eight bytes of the flush: byte 0 is `FB[0]`, byte 7 is `FB[7]` (R55). -/
def flushBytes (fb : Fb) : List Byte :=
  [fb[0], fb[1], fb[2], fb[3], fb[4], fb[5], fb[6], fb[7]]

/-- Take the snapshot and issue the one 8-byte write: `IDLE` to `W_WRITE`. -/
def issueWrite (s : State) : State :=
  record [.write (flushBytes s.fb)] { s with phase := .wWrite s.fb }

/-- The write is answered, Ok or Fail, and the answer is not examined (R111): LED_LAT is driven L, `W_WRITE` to `W_LEDLO`. -/
def writeAnswered (snapshot : Fb) (written : Bool) (s : State) : State :=
  driveLed .low
    (record [if written then .writeOk else .writeFail]
      { s with phase := .wLedlo snapshot written, env := afterWrite s.env })

/-- LED_LAT is driven H and the rising edge commits (R112): `W_LEDLO` to `DONE`. -/
def ledReleased (snapshot : Fb) (written : Bool) (s : State) : State :=
  commitLed snapshot written (driveLed .high (respond okResponse s))

/-- From the write's answer to the response. -/
def finishDraw (snapshot : Fb) (written : Bool) (s : State) : State :=
  ledReleased snapshot written (writeAnswered snapshot written s)

/-- The pseudocode of R110 in an accepted command. If the write is never answered the CU stays in `W_WRITE` with no
response (R119). -/
def drawRun (s : State) : State :=
  match writeAnswerOf s.env with
  | .ok => finishDraw s.fb true (issueWrite s)
  | .fail => finishDraw s.fb false (issueWrite s)
  | .never => issueWrite s

/-- `DRAW` (R110). -/
def execDraw (s : State) : Outcome := accept s drawRun

/-! ### RDBTN, event by event (R114) -/

/-- `RDBTN_TX`, the byte sent during the button transfer (R10, R114, R120). -/
def rdbtnTx : Byte := 0x00

/-- BTN_LAT is driven L, which arms the parallel load: `IDLE` to `R_BTNLO`. -/
def armButton (s : State) : State := driveBtn .low { s with phase := .rBtnlo }

/-- Issue the one-byte transfer while BTN_LAT is L: `R_BTNLO` to `R_XFER`. -/
def issueXfer (s : State) : State := record [.xfer rdbtnTx] { s with phase := .rXfer }

/-- The data byte of the response: the byte received, or 0x00 on failure, "no button pressed" (R114, R115). -/
def buttonByte : Option Byte → Byte
  | some x => x
  | none => 0x00

/-- The transfer is answered (`some x` for Ok(x), `none` for Fail) and BTN_LAT is driven H: `R_XFER` to `DONE`. -/
def xferAnswered (received : Option Byte) (s : State) : State :=
  driveBtn .high
    (record [match received with | some x => .xferOk x | none => .xferFail]
      (respond (dataResponse (buttonByte received)) { s with env := afterXfer s.env }))

/-- The pseudocode of R114 in an accepted command. If the transfer is never answered the CU stays in `R_XFER`, with BTN_LAT L and
no response (R117, R119). -/
def rdbtnRun (s : State) : State :=
  match xferAnswerOf s.env with
  | .ok x => xferAnswered (some x) (issueXfer (armButton s))
  | .fail => xferAnswered none (issueXfer (armButton s))
  | .never => issueXfer (armButton s)

/-- `RDBTN` (R114). -/
def execRdbtn (s : State) : Outcome := accept s rdbtnRun

end Sys2Proof.Machine
end

