-- ==== Sys2Proof/Machine/Framebuffer.lean ====
section
/-! DEFINITION. The framebuffer family, SETL and CLR (R100, R101). Both go from `IDLE` to their response at once (R28). -/

namespace Sys2Proof.Machine

/-- The pseudocode of R100 in an accepted command. -/
def setlRun (i : LightIdx) (s : State) : State :=
  respond okResponse { s with fb := setLight s.fb i }

/-- The pseudocode of R101 in an accepted command. -/
def clrRun (s : State) : State :=
  respond okResponse { s with fb := zeroFb }

/-- `SETL i` (R100). -/
def execSetl (i : LightIdx) (s : State) : Outcome := accept s (setlRun i)

/-- `CLR` (R101). -/
def execClr (s : State) : Outcome := accept s clrRun

end Sys2Proof.Machine
end

