-- ==== Sys2Proof/Machine/Proximity.lean ====
section
/-! DEFINITION. The proximity-search engine, PROX (R134 to R142). Components are read as integers and every sum is exact
(R13); the 34-bit datapath of R136 and the dot-product form of R137 stand beside the definition, to be proved equal to it. -/

namespace Sys2Proof.Machine

/-- `d2(a, b)`, the squared distance in units of 10^-8 (R134). -/
def d2 (lut : Lut) (a b : LutIdx) : Nat :=
  let dx := lut[a].x.toInt - lut[b].x.toInt
  let dy := lut[a].y.toInt - lut[b].y.toInt
  let dz := lut[a].z.toInt - lut[b].z.toInt
  (dx * dx + dy * dy + dz * dz).toNat

/-- `RADIUS_SQ` = 16 000 000, which stands for 0.16 = 0.4² (R10, R135). -/
def radiusSq : Nat := 16000000

/-- `near(a, b)`: strictly within the radius (R135). -/
def near (lut : Lut) (a b : LutIdx) : Bool := d2 lut a b < radiusSq

/-! ### Datapaths that must agree (R136, R137) -/

/-- A difference in the 17 signed bits of R136. -/
def diff17 (p q : BitVec 16) : BitVec 17 := p.signExtend 17 - q.signExtend 17

/-- The square of a 17-bit signed difference, in `ACC_WIDTH` bits. -/
def square34 (d : BitVec 17) : BitVec 34 := d.signExtend 34 * d.signExtend 34

/-- `d2` in the 34-bit unsigned accumulator (R136). -/
def d2Acc (lut : Lut) (a b : LutIdx) : BitVec 34 :=
  square34 (diff17 lut[a].x lut[b].x) + square34 (diff17 lut[a].y lut[b].y)
    + square34 (diff17 lut[a].z lut[b].z)

/-- The 34-bit unsigned compare (R136). -/
def nearAcc (lut : Lut) (a b : LutIdx) : Bool := d2Acc lut a b < BitVec.ofNat 34 radiusSq

/-- `N(j)`, the squared norm of an entry (R137). -/
def normSq (lut : Lut) (j : LutIdx) : Int :=
  lut[j].x.toInt * lut[j].x.toInt + lut[j].y.toInt * lut[j].y.toInt + lut[j].z.toInt * lut[j].z.toInt

/-- `D(a, b)`, the dot product of two entries (R137). -/
def dot (lut : Lut) (a b : LutIdx) : Int :=
  lut[a].x.toInt * lut[b].x.toInt + lut[a].y.toInt * lut[b].y.toInt + lut[a].z.toInt * lut[b].z.toInt

/-- `d2` by the dot-product datapath, with both norm terms (R137). -/
def d2Dot (lut : Lut) (a b : LutIdx) : Int := normSq lut a + normSq lut b - 2 * dot lut a b

/-- The reduced test, which R137 forbids as an implementation; here only so that it can be compared. -/
def reducedTest (lut : Lut) (a b : LutIdx) : Bool := 92000000 < dot lut a b

/-! ### The command -/

/-- Evaluate entry k: OR the light's bit in if the entry is near the centre (R138). -/
def scanEntry (lut : Lut) (c : LutIdx) (fb : Fb) (k : LutIdx) : Fb :=
  if near lut c k then setLight fb (lightOfEntry k) else fb

/-- Evaluate the entries of a list in its order. The order is not architectural (R141). -/
def scanEntries (lut : Lut) (c : LutIdx) (ks : List LutIdx) (fb : Fb) : Fb :=
  ks.foldl (scanEntry lut c) fb

/-- FB after `PROX c`: all 61 entries evaluated (R138). -/
def burst (lut : Lut) (c : LutIdx) (fb : Fb) : Fb := scanEntries lut c (List.finRange 61) fb

/-- The pseudocode of R138 in an accepted command. -/
def proxRun (c : LutIdx) (s : State) : State :=
  respond okResponse { s with fb := burst s.lut c s.fb }

/-- A PROX whose centre has no LUT entry: the error of R172, cause 0x03 (log 12). -/
def noEntry (c : LightIdx) (s : State) : State := illegalCommand (encode (.prox c)) .noLutEntry s

/-- `PROX c` (R138). -/
def execProx (c : LightIdx) (s : State) : Outcome :=
  accept s (fun s => match lutIndex c with
    | some c => proxRun c s
    | none => noEntry c s)

/-! ### PROX, entry by entry (R28 `P_SCAN(k)`) -/

/-- The PSE starts at entry 0: `IDLE` to `P_SCAN(0)`. -/
def startScan (c : LutIdx) (s : State) : State := { s with phase := .pScan c 0 }

/-- The phase after entry k: the next entry, or `DONE` after entry 60. -/
def scanPhaseAfter (c k : LutIdx) : SeqPhase :=
  if h : k.val + 1 < 61 then .pScan c ⟨k.val + 1, h⟩ else .done okResponse

/-- One entry is evaluated. -/
def scanOne (c k : LutIdx) (s : State) : State :=
  { s with fb := scanEntry s.lut c s.fb k, phase := scanPhaseAfter c k }

end Sys2Proof.Machine
end

