-- ==== Sys2Proof/Machine/Dispatch.lean ====
section
/-! DEFINITION. One arm per command, one direct call of its meaning. -/

namespace Sys2Proof.Machine

def exec (i : Instr) (s : State) : Host.Outcome State Fault Refusal :=
  match i with
  | .setl l => Sys2Proof.Machine.execSetl l s
  | .clr => Sys2Proof.Machine.execClr s
  | .draw => Sys2Proof.Machine.execDraw s
  | .rdbtn => Sys2Proof.Machine.execRdbtn s
  | .prox c => Sys2Proof.Machine.execProx c s

end Sys2Proof.Machine
end

