-- ==== Sys2Proof/Machine/Port.lean ====
section
/-! DEFINITION. The command port as a rendezvous: `rsp <- Execute(cmd)` (R81), on any 16-bit word. -/

namespace Sys2Proof.Machine

/-- `Execute(w)` up to the response on RSP: decode the word; perform a legal command, answer an illegal one with the error
response (R81, R85, R171). -/
def executeWord (w : CmdWord) (s : State) : Outcome :=
  match decode w with
  | .legal i => exec i s
  | .illegal c => accept s (illegalCommand w c)

/-- The client that offers `w` next: a harness in place of the one there; a harness's later words stay (log 4). -/
def offering (w : CmdWord) : Client → Client
  | .harness (_ :: ws) rs => .harness (w :: ws) rs
  | .harness [] rs => .harness [w] rs
  | .frameController => .harness [w] []

/-- Accept a command and do its first event only: SETL and CLR respond at once (R28), and so does PROX 61 to 63, an illegal word
(DESIGN CHOICE, log 20); the others leave the sequencer in their first phase. -/
def beginInstr (i : Instr) (s : State) : State :=
  match i with
  | .setl l => setlRun l s
  | .clr => clrRun s
  | .draw => issueWrite s
  | .rdbtn => armButton s
  | .prox c => match lutIndex c with
    | some c => startScan c s
    | none => noEntry c s

/-- The CU, in `IDLE`, accepts the word `w` (R81). An illegal word is answered in this one event (DESIGN CHOICE, log 20). -/
def beginWord (w : CmdWord) (s : State) : State :=
  match decode w with
  | .legal i => beginInstr i s
  | .illegal c => illegalCommand w c s

end Sys2Proof.Machine
end

