-- ==== Sys2Proof/Machine/FrameController.lean ====
section
/-! DEFINITION. The Frame Controller, the reference client (R150 to R163). -/

namespace Sys2Proof.Machine

/-- The 3-bit value of a phase (R32). -/
def fcPhaseCode : FcPhase → BitVec 3
  | .sample => 0
  | .fill => 1
  | .flush => 2
  | .wait => 3
  | .clear => 4
  | .advance => 5

/-- The next phase of the frame cycle (R150). -/
def fcNextPhase : FcPhase → FcPhase
  | .sample => .fill
  | .fill => .flush
  | .flush => .wait
  | .wait => .clear
  | .clear => .advance
  | .advance => .sample

/-- `(SCAN + 1) mod 61` (R156). -/
def scanNext (k : LutIdx) : LutIdx := ⟨(k.val + 1) % 61, by omega⟩

/-- The command FILL issues: `PROX SCAN` (word 0x5000 | SCAN) if SAMPLE[0] = 1, else `SETL SCAN` (word 0x1000 | SCAN) (R152). -/
def fillWord (sample : Byte) (scan : LutIdx) : CmdWord :=
  if burstSelected sample then 0x5000#16 ||| BitVec.ofNat 16 scan.val
  else 0x1000#16 ||| BitVec.ofNat 16 scan.val

/-- The command word the FC offers in its phase; P_WAIT and P_ADVANCE issue none (R151 to R156). -/
def fcWord (s : State) : Option CmdWord :=
  match s.fcPhase with
  | .sample => some 0x4000
  | .fill => some (fillWord s.sample s.scan)
  | .flush => some 0x3000
  | .wait => none
  | .clear => some 0x2000
  | .advance => none

/-- The FC takes the response that ends the command of its phase (R151, R152, R153, R155). It does not examine ERR (R162). -/
def fcReceive (r : CmdWord) (s : State) : State :=
  match s.fcPhase with
  | .sample => { s with sample := dataField r, fcPhase := .fill }
  | .fill => { s with fcPhase := .flush }
  | .flush => { s with fcPhase := .wait }
  | .wait => s
  | .clear => { s with fcPhase := .advance }
  | .advance => s

/-- The client takes the response: the FC acts on it, a harness keeps it (R81, R162; log 5). -/
def clientReceive (r : CmdWord) (s : State) : State :=
  match s.client with
  | .frameController => fcReceive r s
  | .harness ws rs => { s with client := .harness ws (rs ++ [r]) }

/-- Phase `DONE`: the client takes the response on RSP, if there is one, and that ends the command (R28, R81). No response is left
between commands (R29, R34). -/
def deliver (s : State) : State :=
  match rspPort s with
  | some r => clientReceive r (endCommand s)
  | none => s

/-- The two phases that issue no command: the frame delay, one step (R154, R210; log 15), and the advance of the scan
index (R156). -/
def fcInternal (s : State) : State :=
  match s.fcPhase with
  | .wait => record [.delay Config.frameDelayMs] { s with fcPhase := .clear }
  | .advance => { s with scan := scanNext s.scan, fcPhase := .sample }
  | .sample => s
  | .fill => s
  | .flush => s
  | .clear => s

/-- One phase of the FC (R150). A phase that issues a command completes when the response arrives; if none arrives the FC
stays in its phase (R151, R177). -/
def fcStep (s : State) : Outcome :=
  match fcWord s with
  | some w => onNext deliver (executeWord w s)
  | none => .next (fcInternal s)

end Sys2Proof.Machine
end

