-- ==== Sys2Proof/Machine/Reset.lean ====
section
/-! DEFINITION. What a step with the RESET input asserted does (R200 to R203, R208). Who asserts it and when is log 19. -/

namespace Sys2Proof.Machine

/-- The platform can release RESET: clock, latch outputs and bus are all provided (R203). -/
def platformReady : Platform → Bool
  | .down => false
  | .clocked latchOutputs busService => latchOutputs && busService

/-- The platform after it has acted: the clock comes first, and the latch outputs and the bus, in either order, can be provided
only after it (R203). -/
def platformAfter : PlatformAct → Platform → Platform
  | .clock, .down => .clocked false false
  | .clock, .clocked l b => .clocked l b
  | .latchOutputs, .down => .down
  | .latchOutputs, .clocked _ b => .clocked true b
  | .busService, .down => .down
  | .busService, .clocked l _ => .clocked l true
  | .nothing, p => p

/-- The environment after a reset: a transaction in flight is over, whatever its outcome (R201, 93 U7; log 13). -/
def resetEnv (s : State) : Env :=
  match s.phase with
  | .wWrite _ => afterWrite s.env
  | .rXfer => afterXfer s.env
  | .idle => s.env
  | .wLedlo _ _ => s.env
  | .rBtnlo => s.env
  | .pScan _ _ => s.env
  | .done _ => s.env

/-- `LED_OUT` across a reset: kept, but any value if LED_LAT was L, since driving it to H makes a rising edge (R201, R202). -/
def resetLedOut (s : State) : State :=
  match s.ledLat with
  | .low => freeLedOut s
  | .high => s

/-- Both latch lines are driven to their reset level H (R200). -/
def resetLatches (s : State) : State := driveBtn .high (driveLed .high s)

/-- Every piece of state takes its reset value (R200), the LUT stays (a ROM), a command in progress is aborted without a response
and no bus transaction is issued (R201, R202). -/
def resetValues (s : State) : State :=
  let s' := resetLatches (resetLedOut { s with env := resetEnv s })
  { s' with
    fb := zeroFb
    phase := .idle
    scan := 0
    sample := 0
    fcPhase := .sample
    faults := [] }

/-- RESET is released if the platform is ready; else it stays asserted while the platform acts (R203, R208; log 6). -/
def bringUp (s : State) : State :=
  if platformReady s.platform then { s with resetPin := false }
  else { s with platform := platformAfter (platformActOf s.env) s.platform, env := afterBoot s.env }

/-- A step with RESET asserted (R200, R203). -/
def applyReset (s : State) : State := bringUp (resetValues s)

end Sys2Proof.Machine
end

