-- ==== Sys2Proof/Machine/Sequencer.lean ====
section
/-! DEFINITION. The event-level machine: `tick` does one event of the sequencer of R28, so that the states inside a command,
and a reset that cuts one short (R61, R201), can be spoken of (log 7). -/

namespace Sys2Proof.Machine

/-- One event of the command in progress. A bus primitive that never answers leaves no step (R119, R177; log 8). -/
def advance (s : State) : Outcome :=
  match s.phase with
  | .idle => .next s
  | .wWrite snap =>
    match writeAnswerOf s.env with
    | .ok => .next (writeAnswered snap true s)
    | .fail => .next (writeAnswered snap false s)
    | .never => .fault .busHang
  | .wLedlo snap written => .next (ledReleased snap written s)
  | .rBtnlo => .next (issueXfer s)
  | .rXfer =>
    match xferAnswerOf s.env with
    | .ok x => .next (xferAnswered (some x) s)
    | .fail => .next (xferAnswered none s)
    | .never => .fault .busHang
  | .pScan c k => .next (scanOne c k s)
  | .done _ => .next (deliver s)

/-- The client acts while the CU is in `IDLE`, first event only. SETL and CLR are complete with it (R28). DESIGN CHOICE: so is an
illegal word, whose number of steps no rule gives, so that no reset can land before its response is taken (log 20). A
harness with nothing left to offer leaves all as it is (log 10). -/
def beginClient (s : State) : State :=
  match s.client with
  | .frameController =>
    match fcWord s with
    | some w => deliver (beginWord w s)
    | none => fcInternal s
  | .harness [] _ => s
  | .harness (w :: ws) rs => deliver (beginWord w { s with client := .harness ws rs })

/-- One act of the client with the CU in `IDLE`: one phase of the FC, each of which is "one step of the FC agent"
(43_frame_controller), or one word of a harness, performed whole (R61, R81). -/
def clientStep (s : State) : Outcome :=
  match s.client with
  | .frameController => fcStep s
  | .harness [] _ => .next s
  | .harness (w :: ws) rs => onNext deliver (executeWord w { s with client := .harness ws rs })

/-- One event: a reset, the client's next act, or the next event of the command in progress. DESIGN CHOICE: no event asserts RESET;
it is asserted from outside, between any two events (log 19). -/
def tick (s : State) : Outcome :=
  if s.resetPin then .next (applyReset s)
  else match s.phase with
    | .idle => .next (beginClient s)
    | .wWrite _ => advance s
    | .wLedlo _ _ => advance s
    | .rBtnlo => advance s
    | .rXfer => advance s
    | .pScan _ _ => advance s
    | .done _ => advance s

/-- `n` events, stopping at the first stop. -/
def ticks : Nat → State → Outcome
  | 0, s => .next s
  | n + 1, s =>
    match tick s with
    | .next t => ticks n t
    | .fault r => .fault r
    | .refused r => .refused r

end Sys2Proof.Machine
end

