-- ==== Sys2Proof/Machine/Step.lean ====
section
/-! DEFINITION. One step of the machine (log 7), and where a step fetches its instruction: the command port (log 4). -/

namespace Sys2Proof.Machine

/-- One step: a reset if RESET is asserted (R200), the client's next act if the CU is in `IDLE` (R81), else one event of the
command in progress, which a step from `IDLE` leaves only where the bus hangs (R119). DESIGN CHOICE: no step asserts RESET; it is
asserted from outside (log 19). -/
def step (s : State) : Host.Outcome State Fault Refusal :=
  if s.resetPin then .next (applyReset s)
  else match s.phase with
    | .idle => clientStep s
    | .wWrite _ => advance s
    | .wLedlo _ _ => advance s
    | .rBtnlo => advance s
    | .rXfer => advance s
    | .pScan _ _ => advance s
    | .done _ => advance s

/-- `s` with the table's word on the command port, so that the very next step accepts and performs it: the CU in `IDLE`, RESET
released, the word the harness's next offer. -/
def State.withFetchWord (s : State) (nbits w : Nat) : State :=
  { s with
    resetPin := false
    phase := .idle
    client := offering (tableWord nbits w) s.client }

end Sys2Proof.Machine
end

