-- ==== Sys2Proof/Machine/Assembler.lean ====
section
/-! DEFINITION. The assembler of R88 with the pseudo-instructions of R89: one line of text to at most one command word. A line is
a list of characters. What R88 leaves open of the text's form is log 21. -/

namespace Sys2Proof.Machine

/-- What a line assembles to. -/
inductive AsmLine where
  /-- a blank line or a comment: no word (of the blank line, DESIGN CHOICE, log 21) -/
  | nothing
  | word (w : CmdWord)
  /-- an assembly error, which is not an illegal word (R88) -/
  | error
deriving DecidableEq, Repr

/-- The line without its comment, which starts at `;` (R88). -/
def dropComment : List Char → List Char
  | [] => []
  | c :: cs => if c = ';' then [] else c :: dropComment cs

/-- Put a finished token in front, if there is one. -/
def consToken (tok : List Char) (toks : List (List Char)) : List (List Char) :=
  if tok = [] then toks else tok :: toks

/-- The tokens of a line, between blanks, which are spaces and tabs (DESIGN CHOICE, log 21): the token
that the line's start continues, then the others. -/
def tokensAux : List Char → List Char × List (List Char)
  | [] => ([], [])
  | c :: cs =>
    let r := tokensAux cs
    if c = ' ' ∨ c = '\t' then ([], consToken r.1 r.2) else (c :: r.1, r.2)

/-- The tokens of a line. -/
def tokens (line : List Char) : List (List Char) :=
  consToken (tokensAux (dropComment line)).1 (tokensAux (dropComment line)).2

/-- The value of a digit; a hexadecimal digit may be of either case (DESIGN CHOICE, log 21). -/
def digitValue (c : Char) : Option Nat :=
  if '0' ≤ c ∧ c ≤ '9' then some (c.toNat - '0'.toNat)
  else if 'a' ≤ c ∧ c ≤ 'f' then some (c.toNat - 'a'.toNat + 10)
  else if 'A' ≤ c ∧ c ≤ 'F' then some (c.toNat - 'A'.toNat + 10)
  else none

/-- The value of digits in a base, after the value so far. -/
def digitsValue (base : Nat) : Nat → List Char → Option Nat
  | acc, [] => some acc
  | acc, c :: cs =>
    match digitValue c with
    | some d => if d < base then digitsValue base (base * acc + d) cs else none
    | none => none

/-- A decimal or `0x` hexadecimal number, as R88 has it for SETL's operand. DESIGN CHOICE (log 21): PROX's operand has the same form,
leading zeros are allowed, and `0X` is refused. -/
def numberValue : List Char → Option Nat
  | [] => none
  | '0' :: 'x' :: c :: cs => digitsValue 16 0 (c :: cs)
  | c :: cs => digitsValue 10 0 (c :: cs)

/-- A command with an operand below a bound; out of range is an assembly error (R88). -/
def operandWord (bound : Nat) (mk : LightIdx → Instr) (tok : List Char) : AsmLine :=
  match numberValue tok with
  | some n =>
    if h : n < 64 then if n < bound then .word (encode (mk ⟨n, h⟩)) else .error
    else .error
  | none => .error

/-- The commands without an operand, with the pseudo-instruction `FLUSH` = `DRAW` (R88, R89). -/
def plainCommand (mnemonic : List Char) : AsmLine :=
  if mnemonic = ['C', 'L', 'R'] then .word (encode .clr)
  else if mnemonic = ['D', 'R', 'A', 'W'] then .word (encode .draw)
  else if mnemonic = ['F', 'L', 'U', 'S', 'H'] then .word (encode .draw)
  else if mnemonic = ['R', 'D', 'B', 'T', 'N'] then .word (encode .rdbtn)
  else .error

/-- The commands with an operand, with the pseudo-instructions `BASE` = `SETL` and `BURST` = `PROX` (R88, R89). -/
def operandCommand (mnemonic tok : List Char) : AsmLine :=
  if mnemonic = ['S', 'E', 'T', 'L'] then operandWord 64 .setl tok
  else if mnemonic = ['B', 'A', 'S', 'E'] then operandWord 64 .setl tok
  else if mnemonic = ['P', 'R', 'O', 'X'] then operandWord 61 .prox tok
  else if mnemonic = ['B', 'U', 'R', 'S', 'T'] then operandWord 61 .prox tok
  else .error

/-- Assemble one line (R88). Mnemonics are case-insensitive, the pseudo-instructions' among them. A line of no form of R88 or R89 is an
assembly error (DESIGN CHOICE, log 21). -/
def assembleLine (line : List Char) : AsmLine :=
  match tokens line with
  | [] => .nothing
  | [m] => plainCommand (m.map Char.toUpper)
  | [m, tok] => operandCommand (m.map Char.toUpper) tok
  | _ :: _ :: _ :: _ => .error

end Sys2Proof.Machine
end

