-- ==== Sys2Proof/Safety.lean ====
section
/-! DEFINITION. The terms that claims are stated in: no fault recorded (R175), the latch lines (R27, R68), what every reachable
state satisfies, and runs. -/

namespace Sys2Proof.Machine

/-! ### Acceptable states -/

/-- "no fault recorded" (R175). -/
def noFault (s : State) : Prop := s.faults = []

/-- The two latch lines are never both L (R27). -/
def latchesExclusive (s : State) : Prop := ¬ (s.ledLat = .low ∧ s.btnLat = .low)

/-- Both latch lines are H, their level between commands (R25, R26). -/
def latchesIdle (s : State) : Prop := s.ledLat = .high ∧ s.btnLat = .high

/-- The levels of the latch lines in each sequencer phase (R28). -/
def latchesOfPhase (s : State) : Prop :=
  match s.phase with
  | .idle => latchesIdle s
  | .wWrite _ => latchesIdle s
  | .wLedlo _ _ => s.ledLat = .low ∧ s.btnLat = .high
  | .rBtnlo => s.ledLat = .high ∧ s.btnLat = .low
  | .rXfer => s.ledLat = .high ∧ s.btnLat = .low
  | .pScan _ _ => latchesIdle s
  | .done _ => latchesIdle s

/-- DRAW's snapshot is FB as long as DRAW runs (R37 (b)). -/
def snapshotIsFb (s : State) : Prop :=
  match s.phase with
  | .wWrite snap => snap = s.fb
  | .wLedlo snap _ => snap = s.fb
  | .idle => True
  | .rBtnlo => True
  | .rXfer => True
  | .pScan _ _ => True
  | .done _ => True

/-- The source's two LUT entries (R131). -/
def sourceEntries (lut : Lut) : Prop := lut[0] = sourceEntry0 ∧ lut[1] = sourceEntry1

/-- What every state the machine can reach satisfies, inside commands too. -/
def CuInv (s : State) : Prop :=
  latchesOfPhase s ∧ snapshotIsFb s ∧ sourceEntries s.lut ∧ s.faults.Nodup

/-- The CU is hung in a bus transaction (R119). -/
def hung (s : State) : Prop :=
  match s.phase with
  | .wWrite _ => writeAnswerOf s.env = .never
  | .rXfer => xferAnswerOf s.env = .never
  | .idle => False
  | .wLedlo _ _ => False
  | .rBtnlo => False
  | .pScan _ _ => False
  | .done _ => False

/-- The CU is between commands or hung in one; either way no response is there (R29, R34, R119). -/
def atRest (s : State) : Prop := s.phase = .idle ∨ hung s

/-! ### The Frame Controller's frames -/

/-- The set a frame lights, laid out in FB: `M(s)` if the sample's bit 0 is 1, else the one light s (R160). -/
def frameFb (lut : Lut) (sample : Byte) (scan : LutIdx) : Fb :=
  if burstSelected sample then burst lut scan zeroFb else setLight zeroFb (lightOfEntry scan)

/-- FB in each phase of a frame (R160): zero before FILL and after CLEAR, the frame's set between. -/
def fbOfFcPhase (s : State) : Prop :=
  match s.fcPhase with
  | .sample => s.fb = zeroFb
  | .fill => s.fb = zeroFb
  | .flush => s.fb = frameFb s.lut s.sample s.scan
  | .wait => s.fb = frameFb s.lut s.sample s.scan
  | .clear => s.fb = frameFb s.lut s.sample s.scan
  | .advance => s.fb = zeroFb

/-- What every state at the end of a step satisfies when the FC is the client: no fault (R161), FB as the frame has it
(R160), and the CU back in `IDLE` or hung. -/
def FcInv (s : State) : Prop :=
  s.client = .frameController ∧ noFault s ∧ fbOfFcPhase s ∧ atRest s

/-- The start of a frame: the FC about to sample, the CU in `IDLE`, the latch lines H, FB zero (R160). -/
def frameStart (s : State) : Prop :=
  s.client = .frameController ∧ s.resetPin = false ∧ s.phase = .idle ∧ s.fcPhase = .sample ∧
    latchesIdle s ∧ s.fb = zeroFb ∧ noFault s

/-! ### Runs -/

/-- `n` steps, stopping at the first stop. -/
def steps : Nat → State → Outcome
  | 0, s => .next s
  | n + 1, s =>
    match step s with
    | .next t => steps n t
    | .fault r => .fault r
    | .refused r => .refused r

/-- Commands executed one after another, each waiting for the response of the one before (R61, R66). -/
def execAll : List Instr → State → Outcome
  | [], s => .next s
  | i :: is, s =>
    match exec i s with
    | .next t => execAll is (endCommand t)
    | .fault r => .fault r
    | .refused r => .refused r

/-- The command lights index j in a machine with this LUT (R100, R138). -/
def lights (lut : Lut) (j : LightIdx) : Instr → Bool
  | .setl i => i = j
  | .clr => false
  | .draw => false
  | .rdbtn => false
  | .prox c =>
    match lutIndex c, lutIndex j with
    | some c, some k => near lut c k
    | some _, none => false
    | none, some _ => false
    | none, none => false

/-- The physical light `l` is on: some FB bit wired to it is 1 in LED_OUT (R56, R112). -/
def physicallyLit (s : State) (l : Nat) : Prop :=
  ∃ bank bit, Config.wiring bank bit = l ∧ fbBit s.ledOut bank bit = true

end Sys2Proof.Machine
end

