-- ==== Sys2Proof/Certificates/Slice0/Obligations.lean ====
section
/-! DEFINITION. The statements about the model. Each docstring names the rule of spec/ it formalises. A statement that rests on a
rule the spec tags "[derived: ...]" or on a choice of the model says so. -/

open Sys2Proof Sys2Proof.Machine

/-! ### The address translator and the framebuffer -/

/-- R51: light index i maps to bank 7 - i/8 and bit i mod 8, and `FB[bank(i)][bit(i)]` is the FB bit of light i. -/
def Obligations.TranslatorMapsIndexToBankAndBit : Prop :=
  ∀ (i : LightIdx) (fb : Fb),
    (bankOf i).val = 7 - i.val / 8 ∧ (bitOf i).val = i.val % 8 ∧
    lightBit fb i = (fb[(⟨7 - i.val / 8, by omega⟩ : Fin 8)]).getLsbD (i.val % 8)

/-- The spec's own derivation R52 (and R53 for 61 to 63): the translation is a bijection onto the 8 x 8 pairs with inverse
`8 * (7 - bank) + bit`, and indices 61, 62, 63 are bank 0, bits 5, 6, 7. -/
def Obligations.TranslatorIsBijection : Prop :=
  (∀ i : LightIdx, lightOf (bankOf i) (bitOf i) = i) ∧
  (∀ b k : Fin 8, bankOf (lightOf b k) = b ∧ bitOf (lightOf b k) = k ∧
    (lightOf b k).val = 8 * (7 - b.val) + k.val) ∧
  (bankOf 61 = 0 ∧ bitOf 61 = 5) ∧ (bankOf 62 = 0 ∧ bitOf 62 = 6) ∧ (bankOf 63 = 0 ∧ bitOf 63 = 7)

/-- R100: `SETL i` in `IDLE` sets the one bit (7 - i/8, i mod 8), answers 0x0000 and changes nothing else; its word is
0x1000 | i for every i; if the bit is already 1, FB is unchanged; a word with OP 0x1 and RSV not zero is illegal. -/
def Obligations.SetlSetsExactlyItsBit : Prop :=
  ∀ (i : LightIdx) (s : State), s.phase = .idle →
    decode (0x1000#16 ||| BitVec.ofNat 16 i.val) = .legal (.setl i) ∧
    (∀ w : CmdWord, opField w = 0x1 → rsvField w ≠ 0 → decode w = .illegal .reservedField) ∧
    ∃ t, exec (.setl i) s = .next t ∧
      (∀ b k : Fin 8, fbBit t.fb b k =
        (decide (b.val = 7 - i.val / 8 ∧ k.val = i.val % 8) || fbBit s.fb b k)) ∧
      (lightBit s.fb i = true → t.fb = s.fb) ∧
      rspPort t = some 0x0000#16 ∧
      { endCommand t with fb := s.fb } = s

/-- R101: `CLR` in `IDLE` zeroes all eight banks whatever they held, answers 0x0000 and changes nothing else; its word is 0x2000
and every other word with OP 0x2 is illegal. -/
def Obligations.ClrZeroesTheFramebuffer : Prop :=
  ∀ s : State, s.phase = .idle →
    decode 0x2000#16 = .legal .clr ∧
    (∀ w : CmdWord, opField w = 0x2 → w ≠ 0x2000#16 → decode w = .illegal .reservedField) ∧
    ∃ t, exec .clr s = .next t ∧ (∀ b : Fin 8, t.fb[b] = 0x00#8) ∧ rspPort t = some 0x0000#16 ∧
      { endCommand t with fb := s.fb } = s

/-- R103 (a), (b), (c): after CLR then SETL i exactly the one bit (7 - i/8, i mod 8) is set; SETL i twice yields the same
buffer as once; CLR always yields all banks 0. -/
def Obligations.ClearThenSetLightsExactlyOneBit : Prop :=
  ∀ (i : LightIdx) (s : State), s.phase = .idle →
    (∃ t, execAll [.clr, .setl i] s = .next t ∧
      ∀ b k : Fin 8, fbBit t.fb b k = decide (b.val = 7 - i.val / 8 ∧ k.val = i.val % 8)) ∧
    (∃ t u, exec (.setl i) s = .next t ∧ exec (.setl i) (endCommand t) = .next u ∧ u.fb = t.fb) ∧
    (∃ t, exec .clr s = .next t ∧ ∀ b : Fin 8, t.fb[b] = 0x00#8)

/-- The spec's own derivation R102: after any list of legal SETL and PROX commands each FB bit is the OR of its old value and of
what the commands light, so the order of the commands does not change FB. -/
def Obligations.FramebufferIsOrOfLightsInAnyOrder : Prop :=
  ∀ (l l' : List Instr) (s : State), s.phase = .idle → l.Perm l' →
    (∀ i ∈ l, i.wf = true ∧ i ≠ .clr ∧ i ≠ .draw ∧ i ≠ .rdbtn) →
    ∃ t t', execAll l s = .next t ∧ execAll l' s = .next t' ∧ t.fb = t'.fb ∧
      ∀ j, lightBit t.fb j = (lightBit s.fb j || l.any (lights s.lut j))

/-- R22 and R102 (R102 is the spec's own derivation): no command but CLR clears an FB bit, and DRAW and RDBTN leave FB as it
is. -/
def Obligations.OnlyClrClearsFramebufferBits : Prop :=
  ∀ (i : Instr) (s t : State), exec i s = .next t →
    (i ≠ .clr → ∀ j, lightBit s.fb j = true → lightBit t.fb j = true) ∧
    (i = .draw ∨ i = .rdbtn → t.fb = s.fb)

/-- R23: FB is write-only. Executing any word but DRAW's tells nothing of FB: from states that differ in FB alone the outcomes
differ in FB alone. -/
def Obligations.FramebufferSeenOnlyThroughDraw : Prop :=
  ∀ (w : CmdWord) (s : State) (f g : Fb), w ≠ 0x3000#16 →
    onNext (fun t => { t with fb := zeroFb }) (executeWord w { s with fb := f }) =
    onNext (fun t => { t with fb := zeroFb }) (executeWord w { s with fb := g })

/-- R63 (for PROX the spec's own derivation): executing SETL, CLR or PROX a second time changes nothing at all, and has the same
response. -/
def Obligations.FramebufferCommandsAreIdempotent : Prop :=
  ∀ (i : Instr) (s t : State), i ≠ .draw → i ≠ .rdbtn → exec i s = .next t → exec i (endCommand t) = .next t

/-- R206, the spec's own derivation: CLR, then SETL and PROX commands, then a DRAW whose write answers Ok, shows exactly the
lights those commands light. -/
def Obligations.DrawShowsWhatWasBuiltSinceClr : Prop :=
  ∀ (l : List Instr) (s : State), s.phase = .idle → latchesIdle s → writeAnswerOf s.env = .ok →
    (∀ i ∈ l, i.wf = true ∧ i ≠ .clr ∧ i ≠ .draw ∧ i ≠ .rdbtn) →
    ∃ t, execAll (.clr :: l ++ [.draw]) s = .next t ∧
      ∀ j, lightBit t.ledOut j = l.any (lights s.lut j)

/-! ### DRAW and RDBTN -/

/-- R55: whatever the bus answers, DRAW in `IDLE` sends the eight FB banks as one write in bank order, byte b of the transaction
being `FB[b]`. -/
def Obligations.FlushSendsBanksInOrder : Prop :=
  ∀ s : State, s.phase = .idle →
    ∃ t bytes, exec .draw s = .next t ∧ t.trace[s.trace.length]? = some (.write bytes) ∧ bytes.length = 8 ∧
      ∀ b : Fin 8, bytes[b.val]? = some s.fb[b]

/-- R110, R111: DRAW (word 0x3000, alone of its OP) in `IDLE`, its write answered Ok or Fail, sends FB as one 8-byte write,
bank 0 first, then drives LED_LAT L and H whatever the answer, and answers 0x0000; FB and all other state are unchanged and
BTN_LAT stays H. On Ok the pulse commits FB to LED_OUT. -/
def Obligations.DrawWritesThenPulses : Prop :=
  ∀ (s : State) (a : WriteAnswer), s.phase = .idle → latchesIdle s → writeAnswerOf s.env = a → a ≠ .never →
    decode 0x3000#16 = .legal .draw ∧
    (∀ w : CmdWord, opField w = 0x3 → w ≠ 0x3000#16 → decode w = .illegal .reservedField) ∧
    ∃ t, exec .draw s = .next t ∧
      t.trace = s.trace ++
        ([.write [s.fb[0], s.fb[1], s.fb[2], s.fb[3], s.fb[4], s.fb[5], s.fb[6], s.fb[7]],
         if a = .ok then .writeOk else .writeFail, .ledFall, .ledRise] : List Event) ∧
      rspPort t = some 0x0000#16 ∧ latchesIdle t ∧
      (a = .ok → t.ledOut = s.fb ∧ t.env = afterWrite s.env) ∧
      t.env.xfers = s.env.xfers ∧ t.env.writes = s.env.writes.tail ∧
      { endCommand t with trace := s.trace, ledOut := s.ledOut, env := s.env } = s

/-- R114, R115: RDBTN (word 0x4000, alone of its OP) in `IDLE` drives BTN_LAT L, transfers one byte sending 0x00, drives
BTN_LAT H and answers the byte received unchanged, or 0x00 if the transfer fails; FB and all other state are unchanged and
LED_LAT stays H. -/
def Obligations.RdbtnReturnsTheButtonByte : Prop :=
  ∀ (s : State) (a : XferAnswer), s.phase = .idle → latchesIdle s → xferAnswerOf s.env = a → a ≠ .never →
    decode 0x4000#16 = .legal .rdbtn ∧
    (∀ w : CmdWord, opField w = 0x4 → w ≠ 0x4000#16 → decode w = .illegal .reservedField) ∧
    ∃ t v e, exec .rdbtn s = .next t ∧
      ((∃ x, a = .ok x ∧ v = x ∧ e = .xferOk x) ∨ (a = .fail ∧ v = 0x00#8 ∧ e = .xferFail)) ∧
      rspPort t = some (0x00#8 ++ v) ∧
      t.trace = s.trace ++ ([.btnFall, .xfer 0x00#8, e, .btnRise] : List Event) ∧
      latchesIdle t ∧ t.env = afterXfer s.env ∧
      { endCommand t with trace := s.trace, env := s.env } = s

/-- The spec's own derivation R117: from `IDLE` with both latch lines H, DRAW and RDBTN add one of the traces of the table, with
the table's response, and no other. -/
def Obligations.OnlyTheTracesOfTheTable : Prop :=
  ∀ s t : State, latchesIdle s →
    (exec .draw s = .next t →
      (t.trace = s.trace ++ ([.write (flushBytes s.fb), .writeOk, .ledFall, .ledRise] : List Event) ∧
        rspPort t = some 0x0000#16) ∨
      (t.trace = s.trace ++ ([.write (flushBytes s.fb), .writeFail, .ledFall, .ledRise] : List Event) ∧
        rspPort t = some 0x0000#16) ∨
      (t.trace = s.trace ++ ([.write (flushBytes s.fb)] : List Event) ∧ rspPort t = none ∧ latchesIdle t)) ∧
    (exec .rdbtn s = .next t →
      (∃ x : Byte, t.trace = s.trace ++ ([.btnFall, .xfer 0x00#8, .xferOk x, .btnRise] : List Event) ∧
        rspPort t = some (0x00#8 ++ x)) ∨
      (t.trace = s.trace ++ ([.btnFall, .xfer 0x00#8, .xferFail, .btnRise] : List Event) ∧
        rspPort t = some 0x0000#16) ∨
      (t.trace = s.trace ++ ([.btnFall, .xfer 0x00#8] : List Event) ∧ rspPort t = none ∧
        t.btnLat = .low ∧ t.ledLat = .high))

/-- An event that issues a bus transaction. -/
def issuesTransaction : Event → Bool
  | .write _ => true
  | .xfer _ => true
  | .writeOk => false
  | .writeFail => false
  | .xferOk _ => false
  | .xferFail => false
  | .ledFall => false
  | .ledRise => false
  | .btnFall => false
  | .btnRise => false
  | .delay _ => false

/-- R118: DRAW and RDBTN issue exactly one bus transaction each, whatever the outcome. SETL, CLR and PROX have no external
effect (of R62): no transaction, no latch edge, LED_OUT as before. -/
def Obligations.OneTransactionPerBusCommand : Prop :=
  ∀ (i : Instr) (s t : State), exec i s = .next t →
    (i = .draw ∨ i = .rdbtn → t.trace.countP issuesTransaction = s.trace.countP issuesTransaction + 1) ∧
    (i ≠ .draw → i ≠ .rdbtn →
      t.trace = s.trace ∧ t.ledLat = s.ledLat ∧ t.btnLat = s.btnLat ∧ t.ledOut = s.ledOut ∧ t.env = s.env)

/-- From R119, in the model's form (log 8 for the fault of a step, log 11 for that of a command offered): a DRAW in `IDLE`
whose write, or an RDBTN whose transfer, never answers leaves the CU in `W_WRITE` or `R_XFER` with no response. There it
accepts no command and has no step, and a reset ends it, no response reaching the client, whose offers stay (log 14).
Nothing else has changed but the record and, for RDBTN, BTN_LAT. -/
def Obligations.HangEndsOnlyByReset : Prop :=
  ∀ s : State, s.phase = .idle → latchesIdle s → s.resetPin = false →
    ∀ i t, exec i s = .next t →
      ((i = .draw ∧ writeAnswerOf s.env = .never) ∨ (i = .rdbtn ∧ xferAnswerOf s.env = .never)) →
      ((i = .draw ∧ t.phase = .wWrite s.fb ∧ t.btnLat = .high) ∨
        (i = .rdbtn ∧ t.phase = .rXfer ∧ t.btnLat = .low)) ∧
      t.ledLat = .high ∧ rspPort t = none ∧
      { t with phase := s.phase, btnLat := s.btnLat, trace := s.trace } = s ∧
      (∀ j, exec j t = .fault .heldOff) ∧ step t = .fault .busHang ∧ tick t = .fault .busHang ∧
      ∃ u, step { t with resetPin := true } = .next u ∧ u.phase = .idle ∧ latchesIdle u ∧ rspPort u = none ∧
        u.client = t.client

/-- R112 (and R113): with no reset, an event changes LED_OUT only at the rising edge of DRAW's pulse, and there LED_OUT
becomes the snapshot if the write answered Ok. That the write answered Ok is the flag of `W_LEDLO`, which the event that
ends `W_WRITE` sets from the answer. -/
def Obligations.LedOutChangesOnlyAtThePulse : Prop :=
  ∀ s t : State, s.resetPin = false → tick s = .next t →
    (t.ledOut ≠ s.ledOut → ∃ snap w, s.phase = .wLedlo snap w) ∧
    (∀ snap, s.phase = .wWrite snap →
      (writeAnswerOf s.env = .ok ∧ t.phase = .wLedlo snap true) ∨ (writeAnswerOf s.env = .fail ∧ t.phase = .wLedlo snap false)) ∧
    (∀ snap, s.phase = .wLedlo snap true → t.ledOut = snap) ∧
    (∀ snap w, s.phase = .wLedlo snap w → s.ledLat = .low → t.trace = s.trace ++ ([.ledRise] : List Event))

/-! ### The proximity engine -/

/-- R131 (its norm column is the spec's own derivation): LUT entries 0 and 1 of the reset state are the source's, with the
squared norms the table gives. -/
def Obligations.SourceEntriesAndNorms : Prop :=
  let e0 := State.reset.lut[(0 : LutIdx)]
  let e1 := State.reset.lut[(1 : LutIdx)]
  (e0.x.toInt = -8944 ∧ e0.y.toInt = 0 ∧ e0.z.toInt = 4473) ∧
  (e1.x.toInt = -8375 ∧ e1.y.toInt = -1752 ∧ e1.z.toInt = 1491) ∧
  normSq State.reset.lut 0 = 100002865 ∧ normSq State.reset.lut 1 = 75433210

/-- R134, R135: `d2` in units of 10^-8 is the square of the Euclidean distance of the vectors the two entries stand for, and
`near` holds exactly when that distance is below 0.4, strictly. -/
def Obligations.NearIsEuclideanDistanceBelowRadius : Prop :=
  ∀ (lut : Lut) (a b : LutIdx),
    let dx : ℝ := (lut[a].x.toInt : ℝ) / 10000 - (lut[b].x.toInt : ℝ) / 10000
    let dy : ℝ := (lut[a].y.toInt : ℝ) / 10000 - (lut[b].y.toInt : ℝ) / 10000
    let dz : ℝ := (lut[a].z.toInt : ℝ) / 10000 - (lut[b].z.toInt : ℝ) / 10000
    (d2 lut a b : ℝ) / 10 ^ 8 = Real.sqrt (dx ^ 2 + dy ^ 2 + dz ^ 2) ^ 2 ∧
    (d2 lut a b : Int) = (lut[a].x.toInt - lut[b].x.toInt) ^ 2 + (lut[a].y.toInt - lut[b].y.toInt) ^ 2
      + (lut[a].z.toInt - lut[b].z.toInt) ^ 2 ∧
    (near lut a b = true ↔ d2 lut a b < 16000000) ∧
    (near lut a b = true ↔ Real.sqrt (dx ^ 2 + dy ^ 2 + dz ^ 2) < 0.4)

/-- The spec's own derivation R136: for every int16 table each difference is within 65535, `d2` is at most 12 884 508 675 <
2^34, and the 34-bit accumulator and compare agree with the exact ones; for components within 10000, `d2` is at most 1 200
000 000 < 2^31. -/
def Obligations.AccumulatorNeverOverflows : Prop :=
  ∀ (lut : Lut) (a b : LutIdx),
    (lut[a].x.toInt - lut[b].x.toInt).natAbs ≤ 65535 ∧
    (lut[a].y.toInt - lut[b].y.toInt).natAbs ≤ 65535 ∧
    (lut[a].z.toInt - lut[b].z.toInt).natAbs ≤ 65535 ∧
    d2 lut a b ≤ 12884508675 ∧ (d2Acc lut a b).toNat = d2 lut a b ∧ nearAcc lut a b = near lut a b ∧
    ((∀ k : LutIdx, lut[k].x.toInt.natAbs ≤ 10000 ∧ lut[k].y.toInt.natAbs ≤ 10000 ∧
        lut[k].z.toInt.natAbs ≤ 10000) → d2 lut a b ≤ 1200000000)

/-- The spec's own derivation R137: `N(a) + N(b) - 2 D(a, b)` equals `d2`, with N below 2^32; the reduced test `D > 92 000
000` agrees with `near` if both entries are of norm exactly 1, and for the source's entries 0 and 1 it is wrong. -/
def Obligations.DotProductFormIsExact : Prop :=
  ∀ (lut : Lut) (a b : LutIdx),
    (d2 lut a b : Int) = d2Dot lut a b ∧ 0 ≤ normSq lut a ∧ normSq lut a ≤ 3221225472 ∧
    (normSq lut a = 100000000 → normSq lut b = 100000000 → reducedTest lut a b = near lut a b) ∧
    (sourceEntries lut → dot lut 0 1 = 81575243 ∧ d2 lut 0 1 = 12285589 ∧ near lut 0 1 = true ∧
      reducedTest lut 0 1 = false)

/-- R138: `PROX c` in `IDLE` with c < 61 (word 0x5000 | c) sets by OR the FB bit of every k below 61 with d2(c, k) < 16 000
000, answers 0x0000 and changes nothing else; with c in 61..63 the word is illegal, cause 0x03, answered 0x8003 with no
effect. -/
def Obligations.ProxLightsTheNearSet : Prop :=
  ∀ (c : LightIdx) (s : State), s.phase = .idle →
    (∀ h : c.val < 61,
      decode (0x5000#16 ||| BitVec.ofNat 16 c.val) = .legal (.prox c) ∧
      ∃ t, exec (.prox c) s = .next t ∧
        (∀ j : LightIdx, lightBit t.fb j = true ↔
          lightBit s.fb j = true ∨ ∃ hj : j.val < 61, d2 s.lut ⟨c.val, h⟩ ⟨j.val, hj⟩ < 16000000) ∧
        rspPort t = some 0x0000#16 ∧
        { endCommand t with fb := s.fb } = s) ∧
    (61 ≤ c.val →
      decode (0x5000#16 ||| BitVec.ofNat 16 c.val) = .illegal .noLutEntry ∧
      ∃ t, executeWord (0x5000#16 ||| BitVec.ofNat 16 c.val) s = .next t ∧
        rspPort t = some 0x8003#16 ∧ { endCommand t with faults := s.faults } = s)

/-- R139: d2(c, c) = 0 for every table, so `PROX c` always sets the bit of c. -/
def Obligations.BurstContainsItsCentre : Prop :=
  ∀ (c : LutIdx) (s : State), s.phase = .idle →
    d2 s.lut c c = 0 ∧
    ∃ t, exec (.prox (lightOfEntry c)) s = .next t ∧ lightBit t.fb (lightOfEntry c) = true

/-- The spec's own derivations R140 and R142: `near` is symmetric, and from FB zero `PROX c` lights exactly the near set, c
among it and never 61, 62 or 63; with the source's entries both `PROX 0` and `PROX 1` light 0 and 1. -/
def Obligations.BurstFromZeroIsTheNearSet : Prop :=
  ∀ (c : LutIdx) (s : State), s.phase = .idle → s.fb = zeroFb →
    (∀ a b : LutIdx, d2 s.lut a b = d2 s.lut b a ∧ near s.lut a b = near s.lut b a) ∧
    ∃ t, exec (.prox (lightOfEntry c)) s = .next t ∧
      (∀ k : LutIdx, lightBit t.fb (lightOfEntry k) = near s.lut c k) ∧
      lightBit t.fb 61 = false ∧ lightBit t.fb 62 = false ∧ lightBit t.fb 63 = false ∧
      (sourceEntries s.lut → c = 0 ∨ c = 1 → lightBit t.fb 0 = true ∧ lightBit t.fb 1 = true)

/-- The spec's own derivation R141: any order of evaluating the 61 entries leaves the same FB. -/
def Obligations.ScanOrderIsFree : Prop :=
  ∀ (lut : Lut) (c : LutIdx) (fb : Fb) (ks : List LutIdx),
    ks.Perm (List.finRange 61) → scanEntries lut c ks fb = burst lut c fb

/-- R133 (and, of R24, that no reset writes it): no event and no step changes the LUT; only PROX reads it: under two tables
any word with another OP has outcomes that differ in the table alone; and no word, PROX included, has another response or
any other effect outside FB. -/
def Obligations.LutIsReadOnlyAndOnlyProxReadsIt : Prop :=
  (∀ s t : State, step s = .next t → t.lut = s.lut) ∧
  (∀ s t : State, tick s = .next t → t.lut = s.lut) ∧
  (∀ (w : CmdWord) (s : State) (l m : Lut), opField w ≠ 0x5 →
    onNext (fun t => { t with lut := m }) (executeWord w { s with lut := l }) = executeWord w { s with lut := m }) ∧
  ∀ (w : CmdWord) (s : State) (l m : Lut),
    onNext (fun t => { t with lut := m, fb := zeroFb }) (executeWord w { s with lut := l }) =
      onNext (fun t => { t with fb := zeroFb }) (executeWord w { s with lut := m })

/-! ### Encoding and the command port -/

/-- R86: the decoder's checks in their order, with OP = w / 4096, RSV = w / 64 mod 64 and IDX = w mod 64. -/
def Obligations.DecoderChecksInOrder : Prop :=
  ∀ w : CmdWord,
    let op := w.toNat / 4096
    let rsv := w.toNat / 64 % 64
    let idx := w.toNat % 64
    decode w =
      (if op = 0 ∨ 6 ≤ op then .illegal .reservedOp
       else if rsv ≠ 0 then .illegal .reservedField
       else if (op = 2 ∨ op = 3 ∨ op = 4) ∧ idx ≠ 0 then .illegal .reservedField
       else if op = 5 ∧ 61 ≤ idx then .illegal .noLutEntry
       else if op = 1 then .legal (.setl ⟨idx, by omega⟩)
       else if op = 2 then .legal .clr
       else if op = 3 then .legal .draw
       else if op = 4 then .legal .rdbtn
       else .legal (.prox ⟨idx, by omega⟩))

/-- R84: a word is a command of a row exactly when `(word & mask) == match`, for PROX with `word[5:0] < 61` besides, and its
operand is `word[5:0]`; OP 0x0 and 0x6 to 0xF are illegal, and so is 0x0000. -/
def Obligations.TableMasksSelectTheCommand : Prop :=
  (∀ w : CmdWord,
    (∀ i, decode w = .legal (.setl i) ↔ w &&& 0xFFC0#16 = 0x1000#16 ∧ idxField w = i) ∧
    (decode w = .legal .clr ↔ w &&& 0xFFFF#16 = 0x2000#16) ∧
    (decode w = .legal .draw ↔ w &&& 0xFFFF#16 = 0x3000#16) ∧
    (decode w = .legal .rdbtn ↔ w &&& 0xFFFF#16 = 0x4000#16) ∧
    (∀ c, decode w = .legal (.prox c) ↔ w &&& 0xFFC0#16 = 0x5000#16 ∧ idxField w = c ∧ c.val < 61) ∧
    ((opField w = 0x0 ∨ 0x6#4 ≤ opField w) → decode w = .illegal .reservedOp)) ∧
  decode 0x0000#16 = .illegal .reservedOp

/-- Decode and encode agree: decoding the word of a legal command gives the command back, with every operand at every value
the encoding admits (R84, R85). -/
def Obligations.DecodeOfEncode : Prop :=
  ∀ i : Instr, i.wf = true → decode (encode i) = .legal i

/-- From R85: every word is either exactly one legal command, and then it is that command's only encoding, or illegal. And
`exec` of a command is the execution of its word, for PROX 61 to 63 too, which no legal word decodes to (log 12). -/
def Obligations.EveryWordIsOneCommandOrIllegal : Prop :=
  (∀ w : CmdWord,
    (∃ i : Instr, i.wf = true ∧ encode i = w ∧ decode w = .legal i ∧ ∀ j : Instr, j.wf = true → encode j = w → j = i) ∨
    ((∃ c, decode w = .illegal c) ∧ ∀ j : Instr, j.wf = true → encode j ≠ w)) ∧
  ∀ (i : Instr) (s : State), executeWord (encode i) s = exec i s

/-- A sanity check of the decoder on words written out from the encodings of R84 and R85 (from the spec's vectors DC-1 to
DC-26). -/
def Obligations.DecodedWordsOfTheSpec : Prop :=
  decode 0b0001000000001001#16 = .legal (.setl 9) ∧
  decode 0b0001000000111111#16 = .legal (.setl 63) ∧
  decode 0b0010000000000000#16 = .legal .clr ∧
  decode 0b0011000000000000#16 = .legal .draw ∧
  decode 0b0100000000000000#16 = .legal .rdbtn ∧
  decode 0b0101000000111100#16 = .legal (.prox 60) ∧
  decode 0b0101000000111101#16 = .illegal .noLutEntry ∧
  decode 0b0101000001111111#16 = .illegal .reservedField ∧
  decode 0b0111000000000000#16 = .illegal .reservedOp

/-- R81 and R61 as the model has them (log 4, log 7): when the word on the port decodes to a command i, a step is exec of i,
after which the client takes the response, if one has come; a harness's word is taken off its list. After `withFetchWord`
the next step is exec of the word's command. Taking a response ends the command; the FC acts on it, and a harness keeps it
(log 5). -/
def Obligations.StepRunsTheDecodedCommand : Prop :=
  ∀ (s : State) (w : CmdWord) (i : Instr), s.resetPin = false → s.phase = .idle → decode w = .legal i →
    (∀ ws rs, s.client = .harness (w :: ws) rs → step s = onNext deliver (exec i { s with client := .harness ws rs })) ∧
    (s.client = .frameController → fcWord s = some w → step s = onNext deliver (exec i s)) ∧
    (∀ s' : State, ∃ ws rs, step (s'.withFetchWord 16 w.toNat) =
      onNext deliver (exec i { s' with resetPin := false, phase := .idle, client := .harness ws rs })) ∧
    (∀ t : State, rspPort t = none → deliver t = t) ∧
    (∀ (t : State) (r : CmdWord), rspPort t = some r →
      (t.client = .frameController → deliver t = fcReceive r { t with phase := .idle }) ∧
      (∀ ws rs, t.client = .harness ws rs → deliver t = { t with phase := .idle, client := .harness ws (rs ++ [r]) }))

/-- R81 and U20 (log 11): outside `IDLE` no command is accepted and a step takes no word off a harness's list; it leaves the
client as it is, or hands a harness the response. A reset there leaves the client too (log 14). -/
def Obligations.BusyUnitHoldsTheOffer : Prop :=
  ∀ s : State, s.phase ≠ .idle →
    (∀ i, exec i s = .fault .heldOff) ∧ (∀ w, executeWord w s = .fault .heldOff) ∧
    (∀ t, step s = .next t → t.client = s.client ∨
      ∃ ws rs r, rspPort s = some r ∧ s.client = .harness ws rs ∧ t.client = .harness ws (rs ++ [r]))

/-- R82: a response has bits 14:8 zero; ERR is 1 exactly for an illegal word; DATA is the cause code then, the button byte
for RDBTN, and 0x00 otherwise. -/
def Obligations.ResponseWordFormat : Prop :=
  ∀ (w r : CmdWord) (s t : State), executeWord w s = .next t → rspPort t = some r →
    r.extractLsb' 8 7 = 0 ∧
    (errBit r = true ↔ ∃ c, decode w = .illegal c) ∧
    (∀ c, decode w = .illegal c → dataField r = causeCode c) ∧
    (decode w = .legal .rdbtn → ∀ x, xferAnswerOf s.env = .ok x → dataField r = x) ∧
    (decode w = .legal .rdbtn → xferAnswerOf s.env = .fail → dataField r = 0x00#8) ∧
    (∀ i, decode w = .legal i → i ≠ .rdbtn → dataField r = 0x00#8)

/-! ### The illegal-command error -/

/-- R171, R174: an illegal word in `IDLE` changes no state, is answered `0x8000 | cause`, and leaves the CU in `IDLE` when the
response is taken; the model records the fault (R175). -/
def Obligations.IllegalWordHasNoEffect : Prop :=
  ∀ (w : CmdWord) (c : Cause) (s : State), s.phase = .idle → decode w = .illegal c →
    ∃ t, executeWord w s = .next t ∧ rspPort t = some (0x8000#16 ||| (causeCode c).setWidth 16) ∧ (endCommand t).phase = .idle ∧
      ⟨w, c⟩ ∈ t.faults ∧ s.faults ⊆ t.faults ∧ (∀ f ∈ t.faults, f ∈ s.faults ∨ f = ⟨w, c⟩) ∧
      { endCommand t with faults := s.faults } = s

/-- R172, in the order of R173: which cause each illegal word reports, the first that applies of 0x01, 0x02, 0x03, with the
recorded responses; 0x507F reports 0x02 and 0x7000 reports 0x01; SETL 61 to 63 stays legal. -/
def Obligations.CausesInPriorityOrder : Prop :=
  (∀ w : CmdWord,
    (decode w = .illegal .reservedOp ↔ opField w = 0x0 ∨ 0x6#4 ≤ opField w) ∧
    (decode w = .illegal .reservedField ↔ opField w ≠ 0x0 ∧ opField w < 0x6#4 ∧
      (rsvField w ≠ 0 ∨ ((opField w = 0x2 ∨ opField w = 0x3 ∨ opField w = 0x4) ∧ idxField w ≠ 0))) ∧
    (decode w = .illegal .noLutEntry ↔ opField w = 0x5 ∧ rsvField w = 0 ∧ 61 ≤ (idxField w).val)) ∧
  (∀ (w : CmdWord) (c : Cause) (s : State), s.phase = .idle → decode w = .illegal c →
    ∃ t, executeWord w s = .next t ∧
      rspPort t = some (match c with
        | .reservedOp => 0x8001#16
        | .reservedField => 0x8002#16
        | .noLutEntry => 0x8003#16)) ∧
  decode 0x507F#16 = .illegal .reservedField ∧ decode 0x7000#16 = .illegal .reservedOp ∧
  (∀ i : LightIdx, 61 ≤ i.val → decode (0x1000#16 ||| BitVec.ofNat 16 i.val) = .legal (.setl i))

/-- R170: executing a legal command records no fault and never answers with ERR, whatever the bus does; an illegal word
always does both. -/
def Obligations.OnlyIllegalWordsRaiseTheError : Prop :=
  ∀ (w : CmdWord) (s t : State), executeWord w s = .next t →
    (∀ i, decode w = .legal i → t.faults = s.faults ∧ ∀ r, rspPort t = some r → errBit r = false) ∧
    (∀ c, decode w = .illegal c → ⟨w, c⟩ ∈ t.faults ∧ ∃ r, rspPort t = some r ∧ errBit r = true)

/-- From R175: no step and no event clears a recorded fault, unless RESET is asserted (R200; log 6). -/
def Obligations.FaultsAreNeverCleared : Prop :=
  ∀ s t : State, s.resetPin = false → (step s = .next t ∨ tick s = .next t) → s.faults ⊆ t.faults

/-! ### Reset -/

/-- R200: the reset values, in the state right after reset and after a reset of any state; the LUT is unchanged, the fault
set empty. -/
def Obligations.ResetPutsEveryResetValue : Prop :=
  (∀ b : Fin 8, State.reset.fb[b] = 0x00#8) ∧ State.reset.ledLat = .high ∧ State.reset.btnLat = .high ∧
  State.reset.phase = .idle ∧ State.reset.scan = 0 ∧ State.reset.sample = 0x00#8 ∧ State.reset.fcPhase = .sample ∧
  State.reset.faults = [] ∧
  ∀ s : State, s.resetPin = true → ∃ t, step s = .next t ∧ tick s = .next t ∧
    (∀ b : Fin 8, t.fb[b] = 0x00#8) ∧ t.ledLat = .high ∧ t.btnLat = .high ∧ t.phase = .idle ∧ t.scan = 0 ∧
    t.sample = 0x00#8 ∧ t.fcPhase = .sample ∧ t.lut = s.lut ∧ t.faults = []

/-- From R201, with a client that stays over a reset (log 14): a reset in any phase aborts the command without a response, on
RSP or to a harness, which is still the client and has the responses it had (log 14); the edges it makes are only those that
bring a low line to H. From R202: it issues no bus transaction, and LED_OUT is kept unless LED_LAT was L. From R24: the LUT
stays. -/
def Obligations.ResetAbortsAnyCommand : Prop :=
  ∀ s t : State, s.resetPin = true → tick s = .next t →
    t.phase = .idle ∧ rspPort t = none ∧ (∀ ws rs, s.client = .harness ws rs → ∃ ws', t.client = .harness ws' rs) ∧
    t.trace = s.trace ++ ((if s.ledLat = .low then [.ledRise] else []) ++ (if s.btnLat = .low then [.btnRise] else [])) ∧
    (s.ledLat = .high → t.ledOut = s.ledOut) ∧ t.lut = s.lut

/-- R203, R208 as the model has them (log 6): a step in reset releases RESET exactly when the platform provides the clock,
the latch outputs and the bus; otherwise the machine stays in reset and the platform does one act. From nothing it can only
come to provide the clock, and only with the clock provided it can add the latch outputs or the bus, one at a time; a
platform that provides nothing more stays in reset. -/
def Obligations.ResetHeldUntilThePlatformIsReady : Prop :=
  ∀ s t : State, s.resetPin = true → step s = .next t →
    (t.resetPin = false ↔ s.platform = .clocked true true) ∧
    (s.platform = .clocked true true → t.platform = .clocked true true) ∧
    (s.platform = .down → t.platform = .down ∨ t.platform = .clocked false false) ∧
    (∀ l b, s.platform = .clocked l b →
      t.platform = .clocked l b ∨ t.platform = .clocked true b ∨ t.platform = .clocked l true) ∧
    (∀ as, s.env.boots = .nothing :: as → t.platform = s.platform) ∧
    (∀ as, s.env.boots = .clock :: as → s.platform = .down → t.platform = .clocked false false) ∧
    (∀ as b, s.env.boots = .latchOutputs :: as → s.platform = .clocked false b → t.platform = .clocked true b) ∧
    (∀ as l, s.env.boots = .busService :: as → s.platform = .clocked l false → t.platform = .clocked l true)

/-! ### The Frame Controller -/

/-- R151: P_SAMPLE issues RDBTN (0x4000); when the transfer answers, SAMPLE is the byte received, or 0x00 on failure, and
PHASE is P_FILL; when it never answers the FC stays in P_SAMPLE. -/
def Obligations.SamplePhaseReadsTheButton : Prop :=
  ∀ s : State, s.client = .frameController → s.resetPin = false → s.phase = .idle → s.fcPhase = .sample →
    latchesIdle s →
    fcWord s = some 0x4000#16 ∧
    ∃ t, step s = .next t ∧
      (∀ x, xferAnswerOf s.env = .ok x → t.sample = x ∧ t.fcPhase = .fill) ∧
      (xferAnswerOf s.env = .fail → t.sample = 0x00#8 ∧ t.fcPhase = .fill) ∧
      (xferAnswerOf s.env = .never → t.sample = s.sample ∧ t.fcPhase = .sample ∧ hung t) ∧
      t.fb = s.fb ∧ t.scan = s.scan ∧ t.ledOut = s.ledOut ∧ t.faults = s.faults ∧ t.client = s.client

/-- R152: P_FILL issues `PROX SCAN` (0x5000 | SCAN) if SAMPLE[0] = 1 and `SETL SCAN` (0x1000 | SCAN) otherwise, whatever
bits 1 to 7 hold, then PHASE is P_FLUSH; FB is written by the command and no other state changes. -/
def Obligations.FillPhaseSelectsTheBranch : Prop :=
  ∀ s : State, s.client = .frameController → s.resetPin = false → s.phase = .idle → s.fcPhase = .fill →
    fcWord s = some (if s.sample.getLsbD 0 then 0x5000#16 ||| BitVec.ofNat 16 s.scan.val
      else 0x1000#16 ||| BitVec.ofNat 16 s.scan.val) ∧
    ∃ t, step s = .next t ∧ t.fcPhase = .flush ∧
      (∀ j : LightIdx, lightBit t.fb j = true ↔ lightBit s.fb j = true ∨
        (s.sample.getLsbD 0 = false ∧ j.val = s.scan.val) ∨
        (s.sample.getLsbD 0 = true ∧ ∃ h : j.val < 61, d2 s.lut s.scan ⟨j.val, h⟩ < 16000000)) ∧
      { t with fb := s.fb, fcPhase := s.fcPhase } = s

/-- R153: P_FLUSH issues DRAW (0x3000), and when the write answers, Ok or Fail, PHASE is P_WAIT; a write that never answers
hangs the FC. -/
def Obligations.FlushPhaseCommitsTheFrame : Prop :=
  ∀ s : State, s.client = .frameController → s.resetPin = false → s.phase = .idle → s.fcPhase = .flush →
    latchesIdle s →
    fcWord s = some 0x3000#16 ∧
    ∃ t, step s = .next t ∧
      (writeAnswerOf s.env ≠ .never → t.fcPhase = .wait ∧ t.phase = .idle ∧
        Event.write (flushBytes s.fb) ∈ t.trace.drop s.trace.length) ∧
      (writeAnswerOf s.env = .ok → t.ledOut = s.fb) ∧
      (writeAnswerOf s.env = .never → t.fcPhase = .flush ∧ hung t) ∧
      t.fb = s.fb ∧ t.scan = s.scan ∧ t.sample = s.sample ∧ t.faults = s.faults

/-- From R154, with a delay that always ends (log 15; R210 calls its end a fairness assumption): P_WAIT issues no command;
it requests `Delay(FRAME_DELAY_MS)` and then PHASE is P_CLEAR, nothing else changing. -/
def Obligations.WaitPhaseDelaysOnce : Prop :=
  ∀ s : State, s.client = .frameController → s.resetPin = false → s.phase = .idle → s.fcPhase = .wait →
    fcWord s = none ∧
    step s = .next { s with fcPhase := .clear, trace := s.trace ++ ([.delay Config.frameDelayMs] : List Event) }

/-- R155: P_CLEAR issues CLR (0x2000) and then PHASE is P_ADVANCE with FB zero; the lights keep the committed pattern. -/
def Obligations.ClearPhaseClearsTheFramebuffer : Prop :=
  ∀ s : State, s.client = .frameController → s.resetPin = false → s.phase = .idle → s.fcPhase = .clear →
    fcWord s = some 0x2000#16 ∧
    ∃ t, step s = .next t ∧ t.fcPhase = .advance ∧ (∀ b : Fin 8, t.fb[b] = 0x00#8) ∧ t.ledOut = s.ledOut ∧
      { t with fb := s.fb, fcPhase := s.fcPhase } = s

/-- R156: P_ADVANCE issues no command, sets SCAN to (SCAN + 1) mod 61, so that 60 wraps to 0, and PHASE to P_SAMPLE. -/
def Obligations.AdvancePhaseStepsTheScanIndex : Prop :=
  ∀ s : State, s.client = .frameController → s.resetPin = false → s.phase = .idle → s.fcPhase = .advance →
    fcWord s = none ∧
    ∃ t, step s = .next t ∧ t.scan.val = (s.scan.val + 1) % 61 ∧ t.fcPhase = .sample ∧
      { t with scan := s.scan, fcPhase := s.fcPhase } = s

/-- From R150: with the FC as client and no reset, a step from `IDLE` goes to the next phase of the cycle of six, or stays
in its phase with the CU hung; there are no other transitions. The phase values 0 to 5 are those of R32. -/
def Obligations.FramePhasesInTheFixedCycle : Prop :=
  (∀ s t : State, s.client = .frameController → s.resetPin = false → s.phase = .idle → step s = .next t →
    (fcPhaseCode t.fcPhase).toNat = ((fcPhaseCode s.fcPhase).toNat + 1) % 6 ∧ t.phase = .idle ∨
    t.fcPhase = s.fcPhase ∧ hung t ∧ (s.fcPhase = .sample ∨ s.fcPhase = .flush)) ∧
  fcPhaseCode .sample = 0 ∧ fcPhaseCode .fill = 1 ∧ fcPhaseCode .flush = 2 ∧ fcPhaseCode .wait = 3 ∧
  fcPhaseCode .clear = 4 ∧ fcPhaseCode .advance = 5

/-- The spec's own derivation R161: whatever the state, the word the FC offers is a legal RDBTN, SETL, PROX, DRAW or CLR, a
SETL or PROX having the scan index as its operand. -/
def Obligations.FrameControllerIssuesOnlyLegalCommands : Prop :=
  ∀ (s : State) (w : CmdWord), fcWord s = some w →
    ∃ i, decode w = .legal i ∧ i.wf = true ∧
      (i = .rdbtn ∨ i = .draw ∨ i = .clr ∨ i = .setl (lightOfEntry s.scan) ∨ i = .prox (lightOfEntry s.scan))

/-- The spec's own derivation R158: two machines at the start of a frame, with the same table and scan index, whose samples
agree in bit 0, have the same FB after P_FILL, whatever else differs, their histories included. No reset cuts the two steps
(log 19). -/
def Obligations.BranchDependsOnlyOnThisFramesBit : Prop :=
  ∀ s s' t t' : State, frameStart s → frameStart s' → s.lut = s'.lut → s.scan = s'.scan →
    steps 2 s = .next t → steps 2 s' = .next t' → t.sample.getLsbD 0 = t'.sample.getLsbD 0 → t.fb = t'.fb

/-- The spec's own derivations R160 and R161: `FcInv` (no fault, FB as the frame's phase has it, the CU in `IDLE` or hung)
holds after every step from every state where it holds. -/
def Obligations.FrameInvariantKeptByEveryStep : Prop :=
  ∀ s t : State, FcInv s → step s = .next t → FcInv t

/-- The spec's own derivation R160: in P_FLUSH the eight bytes sent are those of the frame's set, the one light SCAN or the
burst around it. -/
def Obligations.FlushSendsTheFramesSet : Prop :=
  ∀ s t : State, FcInv s → latchesIdle s → s.resetPin = false → s.phase = .idle → s.fcPhase = .flush →
    step s = .next t →
    (∃ es, t.trace = s.trace ++ Event.write (flushBytes s.fb) :: es) ∧
    ∀ j : LightIdx, lightBit s.fb j = true ↔
      (s.sample.getLsbD 0 = false ∧ j.val = s.scan.val) ∨
      (s.sample.getLsbD 0 = true ∧ ∃ h : j.val < 61, d2 s.lut s.scan ⟨j.val, h⟩ < 16000000)

/-- The spec's own derivation R159: n whole frames advance SCAN by n modulo 61 and end at the start of a frame, with
whatever answers the bus gave and no reset among their steps (log 19). -/
def Obligations.ScanIndexHasPeriod61 : Prop :=
  ∀ (n : Nat) (s t : State), frameStart s → steps (6 * n) s = .next t →
    frameStart t ∧ t.scan.val = (s.scan.val + n) % 61 ∧ (n = 61 → t.scan = s.scan)

/-- From R150 to R156, with the bus answering and with every delay ending (log 15, the fairness assumption R210 names) and
no reset among its steps (log 19): a frame takes six steps, shows its set if the write answers Ok, and ends at the start of
the next frame (the spec's derivation R160; its program P2). -/
def Obligations.AnsweredFrameCompletesInSixSteps : Prop :=
  ∀ (s : State) (x : XferAnswer) (a : WriteAnswer) (v : Byte), frameStart s →
    xferAnswerOf s.env = x → x ≠ .never → writeAnswerOf (afterXfer s.env) = a → a ≠ .never →
    (x = .ok v ∨ x = .fail ∧ v = 0x00#8) →
    ∃ t, steps 6 s = .next t ∧ frameStart t ∧ t.scan = scanNext s.scan ∧ t.sample = v ∧ t.lut = s.lut ∧
      (a = .ok → t.ledOut = frameFb s.lut v s.scan)

/-! ### Invariants and the two machines -/

/-- The state right after reset satisfies both invariants, and is the start of a frame, since the model's client right after
reset is the FC (log 4) and RESET is released (log 6). -/
def Obligations.ResetSatisfiesTheInvariants : Prop :=
  CuInv State.reset ∧ FcInv State.reset ∧ frameStart State.reset

/-- The latch levels belong to the phase, the snapshot is FB, the source's LUT entries stay and the fault set has no
repeats: every step keeps this (`CuInv`). And a step from between commands ends between commands or hung in one, so that no
response is held there (R29, R34). -/
def Obligations.InvariantKeptByEveryStep : Prop :=
  (∀ s t : State, CuInv s → step s = .next t → CuInv t) ∧
  (∀ s t : State, atRest s → step s = .next t → atRest t ∧ rspPort t = none)

/-- `CuInv` (the invariant of InvariantKeptByEveryStep) is kept by every event, inside commands and by a reset at any point. -/
def Obligations.InvariantKeptByEveryEvent : Prop :=
  ∀ s t : State, CuInv s → tick s = .next t → CuInv t

/-- The spec's own derivations R27 and R68: after any event the latch lines are not both L; while a write is in progress
BTN_LAT is H, while a transfer is in progress LED_LAT is H, and in `IDLE` both are H. -/
def Obligations.LatchesAreExclusiveAtEveryEvent : Prop :=
  ∀ s t : State, CuInv s → tick s = .next t →
    latchesExclusive t ∧
    (∀ snap, t.phase = .wWrite snap → t.btnLat = .high) ∧
    (t.phase = .rXfer → t.ledLat = .high) ∧
    (t.phase = .idle → latchesIdle t)

/-- R61 as the model has it (log 7): whatever one step does, a run of at most 63 events does. -/
def Obligations.StepIsARunOfEvents : Prop :=
  ∀ s t : State, step s = .next t → ∃ n, 0 < n ∧ n ≤ 63 ∧ ticks n s = .next t

/-! ### Assembler -/

/-- From R88 and R89, in the spellings named here: with every operand i from 0 to 63 in decimal, `SETL i`, and `base i` before a
comment, assemble to the word of SETL i, and `PROX i` and `Burst i` to the word of PROX i, or for i = 61, 62 and 63 to an
assembly error. The lines `CLR`, `draw`, `FLUSH`, `RDBTN ;` and `SETL 0x3F` assemble to their words, `SETL 64` is an assembly
error, and a line with a comment only has no word. That PROX's operand is decimal, and
that the names `base` and `Burst` may be in any case, is the model's choice (log 21). -/
def Obligations.AssemblerEmitsTheWordOfEachLine : Prop :=
  (∀ i : LightIdx,
    assembleLine ("SETL ".toList ++ (Nat.repr i.val).toList) = .word (encode (.setl i)) ∧
    assembleLine ("base ".toList ++ (Nat.repr i.val).toList ++ " ; x".toList) = .word (encode (.setl i)) ∧
    assembleLine ("PROX ".toList ++ (Nat.repr i.val).toList) =
      (if i.val < 61 then .word (encode (.prox i)) else .error) ∧
    assembleLine ("Burst ".toList ++ (Nat.repr i.val).toList) =
      (if i.val < 61 then .word (encode (.prox i)) else .error)) ∧
  assembleLine "CLR".toList = .word 0x2000#16 ∧ assembleLine "draw".toList = .word 0x3000#16 ∧
  assembleLine "FLUSH".toList = .word 0x3000#16 ∧ assembleLine "RDBTN ;".toList = .word 0x4000#16 ∧
  assembleLine "SETL 0x3F".toList = .word 0x103F#16 ∧ assembleLine "SETL 64".toList = .error ∧
  assembleLine "; only a comment".toList = .nothing
end

