-- ==== Sys2Proof/Laws/Decode.lean ====
section
/-! SUPPORT. The fields of a command word as numbers (R80), and the two cases of each check of the decoder (R86). -/

namespace Sys2Proof

theorem opField_toNat (w : CmdWord) : (opField w).toNat = w.toNat / 4096 := by
  simp only [opField, BitVec.extractLsb'_toNat, Nat.shiftRight_eq_div_pow]
  exact Nat.mod_eq_of_lt (by omega)

theorem rsvField_toNat (w : CmdWord) : (rsvField w).toNat = w.toNat / 64 % 64 := by
  simp only [rsvField, BitVec.extractLsb'_toNat, Nat.shiftRight_eq_div_pow]

theorem idxField_val (w : CmdWord) : (idxField w).val = w.toNat % 64 := by
  show (w.extractLsb' 0 6).toNat = _
  simp [BitVec.extractLsb'_toNat]

theorem commandWord_toNat (op : BitVec 4) (idx : LightIdx) :
    (commandWord op idx).toNat = op.toNat * 4096 + idx.val := by
  have h := idx.isLt
  have ho := op.isLt
  have e : (BitVec.ofFin idx : BitVec 6).toNat = idx.val := rfl
  have hs := Nat.two_pow_add_eq_or_of_lt (i := 6 + 6) (b := idx.val) (by omega) op.toNat
  simp only [commandWord, BitVec.toNat_append, e]
  rw [Nat.shiftLeft_or_distrib, ← Nat.shiftLeft_add]
  rw [Nat.shiftLeft_eq, show BitVec.toNat (0 : BitVec 6) = 0 from rfl, Nat.zero_shiftLeft, Nat.or_zero,
    Nat.mul_comm op.toNat, ← hs]

@[simp] theorem opField_commandWord (op : BitVec 4) (idx : LightIdx) : opField (commandWord op idx) = op := by
  apply BitVec.eq_of_toNat_eq
  have := idx.isLt
  rw [opField_toNat, commandWord_toNat]
  omega

@[simp] theorem rsvField_commandWord (op : BitVec 4) (idx : LightIdx) : rsvField (commandWord op idx) = 0 := by
  apply BitVec.eq_of_toNat_eq
  have := idx.isLt
  rw [rsvField_toNat, commandWord_toNat]
  show _ = 0
  omega

@[simp] theorem idxField_commandWord (op : BitVec 4) (idx : LightIdx) : idxField (commandWord op idx) = idx := by
  apply Fin.ext
  have := idx.isLt
  rw [idxField_val, commandWord_toNat]
  omega

/-- A word whose RSV field is 0 is the word of its own OP and IDX (R80). -/
theorem commandWord_fields {w : CmdWord} (h : rsvField w = 0) : commandWord (opField w) (idxField w) = w := by
  apply BitVec.eq_of_toNat_eq
  have hr : w.toNat / 64 % 64 = 0 := by rw [← rsvField_toNat, h]; rfl
  have := w.isLt
  rw [commandWord_toNat, opField_toNat, idxField_val]
  omega

theorem noOperand_zero (i : Instr) : noOperand i 0 = .legal i := rfl

theorem noOperand_ne {i : Instr} {idx : LightIdx} (h : idx ≠ 0) :
    noOperand i idx = .illegal .reservedField := if_neg h

namespace Machine

/-- The words the Frame Controller issues are the encodings of their commands (R152). -/
theorem fillWord_eq (sample : Byte) (scan : LutIdx) :
    fillWord sample scan =
      encode (if burstSelected sample then .prox (lightOfEntry scan) else .setl (lightOfEntry scan)) := by
  unfold fillWord
  split
  · revert scan; decide
  · revert scan; decide

end Machine

end Sys2Proof
end

