-- ==== Sys2Proof/Laws/Framebuffer.lean ====
section
/-! SUPPORT. The framebuffer bit by bit: reading a bit after a write, and two framebuffers equal when all their bits are. -/

namespace Sys2Proof.Machine

/-- The address translator separates lights (R52). -/
theorem address_inj {i j : LightIdx} : (bankOf i = bankOf j ∧ bitOf i = bitOf j) ↔ i = j := by
  constructor
  · rintro ⟨hb, hk⟩
    have hb : 7 - i.val / 8 = 7 - j.val / 8 := congrArg Fin.val hb
    have hk : i.val % 8 = j.val % 8 := congrArg Fin.val hk
    have := i.isLt
    have := j.isLt
    exact Fin.ext (by omega)
  · rintro rfl; exact ⟨rfl, rfl⟩

theorem bankOf_lightOf (b k : Fin 8) : bankOf (lightOf b k) = b := by
  apply Fin.ext; simp only [bankOf, lightOf]; omega

theorem bitOf_lightOf (b k : Fin 8) : bitOf (lightOf b k) = k := by
  apply Fin.ext; simp only [bitOf, lightOf]; omega

/-- A bank's bit after one bit of a bank is set. -/
theorem fbBit_setLight (fb : Fb) (i : LightIdx) (b k : Fin 8) :
    fbBit (setLight fb i) b k = (decide (bankOf i = b ∧ bitOf i = k) || fbBit fb b k) := by
  have hk : k.val < 8 := k.isLt
  simp only [fbBit, setLight, Fin.getElem_fin, Vector.getElem_set]
  by_cases hb : bankOf i = b
  · subst hb
    have e : (1#8 <<< (bitOf i).val).getLsbD k.val = decide (bitOf i = k) := by
      revert k; generalize bitOf i = m; revert m; decide
    simp only [if_true, true_and]
    rw [BitVec.getLsbD_or, e, Bool.or_comm]
  · have : (bankOf i).val ≠ b.val := fun h => hb (Fin.ext h)
    simp [hb, this]

/-- A light's bit after one light is set (R100). -/
theorem lightBit_setLight (fb : Fb) (i j : LightIdx) :
    lightBit (setLight fb i) j = (decide (i = j) || lightBit fb j) := by
  simp only [lightBit, fbBit_setLight, address_inj]

@[simp] theorem fbBit_zeroFb (b k : Fin 8) : fbBit zeroFb b k = false := by
  simp [fbBit, zeroFb]

@[simp] theorem lightBit_zeroFb (j : LightIdx) : lightBit zeroFb j = false := fbBit_zeroFb _ _

/-- Two framebuffers with the same bits are equal. -/
theorem fb_ext {fb fb' : Fb} (h : ∀ b k, fbBit fb b k = fbBit fb' b k) : fb = fb' := by
  apply Vector.ext
  intro b hb
  apply BitVec.eq_of_getLsbD_eq
  intro k hk
  exact h ⟨b, hb⟩ ⟨k, hk⟩

/-- Two framebuffers with the same lights are equal. -/
theorem fb_ext_light {fb fb' : Fb} (h : ∀ j, lightBit fb j = lightBit fb' j) : fb = fb' := by
  apply fb_ext
  intro b k
  have := h (lightOf b k)
  simpa only [lightBit, bankOf_lightOf, bitOf_lightOf] using this

end Sys2Proof.Machine
end

