-- ==== Sys2Proof/Laws/State.lean ====
section
/-! SUPPORT. One lemma per field per update of State: what each of the primitive updates of Machine/Ops.lean leaves in each
field, so that no later proof unfolds a record update. -/

namespace Sys2Proof.Machine

variable (s : State)

/-! ### `respond` -/

@[simp] theorem respond_fb (r : CmdWord) : (respond r s).fb = s.fb := rfl
@[simp] theorem respond_lut (r : CmdWord) : (respond r s).lut = s.lut := rfl
@[simp] theorem respond_ledLat (r : CmdWord) : (respond r s).ledLat = s.ledLat := rfl
@[simp] theorem respond_btnLat (r : CmdWord) : (respond r s).btnLat = s.btnLat := rfl
@[simp] theorem respond_phase (r : CmdWord) : (respond r s).phase = .done r := rfl
@[simp] theorem respond_scan (r : CmdWord) : (respond r s).scan = s.scan := rfl
@[simp] theorem respond_sample (r : CmdWord) : (respond r s).sample = s.sample := rfl
@[simp] theorem respond_fcPhase (r : CmdWord) : (respond r s).fcPhase = s.fcPhase := rfl
@[simp] theorem respond_resetPin (r : CmdWord) : (respond r s).resetPin = s.resetPin := rfl
@[simp] theorem respond_platform (r : CmdWord) : (respond r s).platform = s.platform := rfl
@[simp] theorem respond_client (r : CmdWord) : (respond r s).client = s.client := rfl
@[simp] theorem respond_env (r : CmdWord) : (respond r s).env = s.env := rfl
@[simp] theorem respond_trace (r : CmdWord) : (respond r s).trace = s.trace := rfl
@[simp] theorem respond_ledOut (r : CmdWord) : (respond r s).ledOut = s.ledOut := rfl
@[simp] theorem respond_faults (r : CmdWord) : (respond r s).faults = s.faults := rfl

/-! ### `recordFault` -/

@[simp] theorem recordFault_fb (f : IllegalCommand) : (recordFault f s).fb = s.fb := rfl
@[simp] theorem recordFault_lut (f : IllegalCommand) : (recordFault f s).lut = s.lut := rfl
@[simp] theorem recordFault_ledLat (f : IllegalCommand) : (recordFault f s).ledLat = s.ledLat := rfl
@[simp] theorem recordFault_btnLat (f : IllegalCommand) : (recordFault f s).btnLat = s.btnLat := rfl
@[simp] theorem recordFault_phase (f : IllegalCommand) : (recordFault f s).phase = s.phase := rfl
@[simp] theorem recordFault_scan (f : IllegalCommand) : (recordFault f s).scan = s.scan := rfl
@[simp] theorem recordFault_sample (f : IllegalCommand) : (recordFault f s).sample = s.sample := rfl
@[simp] theorem recordFault_fcPhase (f : IllegalCommand) : (recordFault f s).fcPhase = s.fcPhase := rfl
@[simp] theorem recordFault_resetPin (f : IllegalCommand) : (recordFault f s).resetPin = s.resetPin := rfl
@[simp] theorem recordFault_platform (f : IllegalCommand) : (recordFault f s).platform = s.platform := rfl
@[simp] theorem recordFault_client (f : IllegalCommand) : (recordFault f s).client = s.client := rfl
@[simp] theorem recordFault_env (f : IllegalCommand) : (recordFault f s).env = s.env := rfl
@[simp] theorem recordFault_trace (f : IllegalCommand) : (recordFault f s).trace = s.trace := rfl
@[simp] theorem recordFault_ledOut (f : IllegalCommand) : (recordFault f s).ledOut = s.ledOut := rfl
@[simp] theorem recordFault_faults (f : IllegalCommand) : (recordFault f s).faults = if f ∈ s.faults then s.faults else s.faults ++ [f] := rfl

/-! ### `record` -/

@[simp] theorem record_fb (es : List Event) : (record es s).fb = s.fb := rfl
@[simp] theorem record_lut (es : List Event) : (record es s).lut = s.lut := rfl
@[simp] theorem record_ledLat (es : List Event) : (record es s).ledLat = s.ledLat := rfl
@[simp] theorem record_btnLat (es : List Event) : (record es s).btnLat = s.btnLat := rfl
@[simp] theorem record_phase (es : List Event) : (record es s).phase = s.phase := rfl
@[simp] theorem record_scan (es : List Event) : (record es s).scan = s.scan := rfl
@[simp] theorem record_sample (es : List Event) : (record es s).sample = s.sample := rfl
@[simp] theorem record_fcPhase (es : List Event) : (record es s).fcPhase = s.fcPhase := rfl
@[simp] theorem record_resetPin (es : List Event) : (record es s).resetPin = s.resetPin := rfl
@[simp] theorem record_platform (es : List Event) : (record es s).platform = s.platform := rfl
@[simp] theorem record_client (es : List Event) : (record es s).client = s.client := rfl
@[simp] theorem record_env (es : List Event) : (record es s).env = s.env := rfl
@[simp] theorem record_trace (es : List Event) : (record es s).trace = s.trace ++ es := rfl
@[simp] theorem record_ledOut (es : List Event) : (record es s).ledOut = s.ledOut := rfl
@[simp] theorem record_faults (es : List Event) : (record es s).faults = s.faults := rfl

/-! ### `driveLed` -/

@[simp] theorem driveLed_fb (l : Level) : (driveLed l s).fb = s.fb := rfl
@[simp] theorem driveLed_lut (l : Level) : (driveLed l s).lut = s.lut := rfl
@[simp] theorem driveLed_ledLat (l : Level) : (driveLed l s).ledLat = l := rfl
@[simp] theorem driveLed_btnLat (l : Level) : (driveLed l s).btnLat = s.btnLat := rfl
@[simp] theorem driveLed_phase (l : Level) : (driveLed l s).phase = s.phase := rfl
@[simp] theorem driveLed_scan (l : Level) : (driveLed l s).scan = s.scan := rfl
@[simp] theorem driveLed_sample (l : Level) : (driveLed l s).sample = s.sample := rfl
@[simp] theorem driveLed_fcPhase (l : Level) : (driveLed l s).fcPhase = s.fcPhase := rfl
@[simp] theorem driveLed_resetPin (l : Level) : (driveLed l s).resetPin = s.resetPin := rfl
@[simp] theorem driveLed_platform (l : Level) : (driveLed l s).platform = s.platform := rfl
@[simp] theorem driveLed_client (l : Level) : (driveLed l s).client = s.client := rfl
@[simp] theorem driveLed_env (l : Level) : (driveLed l s).env = s.env := rfl
@[simp] theorem driveLed_trace (l : Level) : (driveLed l s).trace = s.trace ++ ledEdge s.ledLat l := rfl
@[simp] theorem driveLed_ledOut (l : Level) : (driveLed l s).ledOut = s.ledOut := rfl
@[simp] theorem driveLed_faults (l : Level) : (driveLed l s).faults = s.faults := rfl

/-! ### `driveBtn` -/

@[simp] theorem driveBtn_fb (l : Level) : (driveBtn l s).fb = s.fb := rfl
@[simp] theorem driveBtn_lut (l : Level) : (driveBtn l s).lut = s.lut := rfl
@[simp] theorem driveBtn_ledLat (l : Level) : (driveBtn l s).ledLat = s.ledLat := rfl
@[simp] theorem driveBtn_btnLat (l : Level) : (driveBtn l s).btnLat = l := rfl
@[simp] theorem driveBtn_phase (l : Level) : (driveBtn l s).phase = s.phase := rfl
@[simp] theorem driveBtn_scan (l : Level) : (driveBtn l s).scan = s.scan := rfl
@[simp] theorem driveBtn_sample (l : Level) : (driveBtn l s).sample = s.sample := rfl
@[simp] theorem driveBtn_fcPhase (l : Level) : (driveBtn l s).fcPhase = s.fcPhase := rfl
@[simp] theorem driveBtn_resetPin (l : Level) : (driveBtn l s).resetPin = s.resetPin := rfl
@[simp] theorem driveBtn_platform (l : Level) : (driveBtn l s).platform = s.platform := rfl
@[simp] theorem driveBtn_client (l : Level) : (driveBtn l s).client = s.client := rfl
@[simp] theorem driveBtn_env (l : Level) : (driveBtn l s).env = s.env := rfl
@[simp] theorem driveBtn_trace (l : Level) : (driveBtn l s).trace = s.trace ++ btnEdge s.btnLat l := rfl
@[simp] theorem driveBtn_ledOut (l : Level) : (driveBtn l s).ledOut = s.ledOut := rfl
@[simp] theorem driveBtn_faults (l : Level) : (driveBtn l s).faults = s.faults := rfl

/-! ### `freeLedOut` -/

@[simp] theorem freeLedOut_fb : (freeLedOut s).fb = s.fb := rfl
@[simp] theorem freeLedOut_lut : (freeLedOut s).lut = s.lut := rfl
@[simp] theorem freeLedOut_ledLat : (freeLedOut s).ledLat = s.ledLat := rfl
@[simp] theorem freeLedOut_btnLat : (freeLedOut s).btnLat = s.btnLat := rfl
@[simp] theorem freeLedOut_phase : (freeLedOut s).phase = s.phase := rfl
@[simp] theorem freeLedOut_scan : (freeLedOut s).scan = s.scan := rfl
@[simp] theorem freeLedOut_sample : (freeLedOut s).sample = s.sample := rfl
@[simp] theorem freeLedOut_fcPhase : (freeLedOut s).fcPhase = s.fcPhase := rfl
@[simp] theorem freeLedOut_resetPin : (freeLedOut s).resetPin = s.resetPin := rfl
@[simp] theorem freeLedOut_platform : (freeLedOut s).platform = s.platform := rfl
@[simp] theorem freeLedOut_client : (freeLedOut s).client = s.client := rfl
@[simp] theorem freeLedOut_env : (freeLedOut s).env = afterDraw s.env := rfl
@[simp] theorem freeLedOut_trace : (freeLedOut s).trace = s.trace := rfl
@[simp] theorem freeLedOut_ledOut : (freeLedOut s).ledOut = Config.ledOutFree s.env.draws := rfl
@[simp] theorem freeLedOut_faults : (freeLedOut s).faults = s.faults := rfl

/-! ### `endCommand`: all but the phase stays -/

@[simp] theorem endCommand_fb : (endCommand s).fb = s.fb := by unfold endCommand; split <;> rfl
@[simp] theorem endCommand_lut : (endCommand s).lut = s.lut := by unfold endCommand; split <;> rfl
@[simp] theorem endCommand_ledLat : (endCommand s).ledLat = s.ledLat := by unfold endCommand; split <;> rfl
@[simp] theorem endCommand_btnLat : (endCommand s).btnLat = s.btnLat := by unfold endCommand; split <;> rfl
@[simp] theorem endCommand_scan : (endCommand s).scan = s.scan := by unfold endCommand; split <;> rfl
@[simp] theorem endCommand_sample : (endCommand s).sample = s.sample := by unfold endCommand; split <;> rfl
@[simp] theorem endCommand_fcPhase : (endCommand s).fcPhase = s.fcPhase := by unfold endCommand; split <;> rfl
@[simp] theorem endCommand_resetPin : (endCommand s).resetPin = s.resetPin := by unfold endCommand; split <;> rfl
@[simp] theorem endCommand_platform : (endCommand s).platform = s.platform := by unfold endCommand; split <;> rfl
@[simp] theorem endCommand_client : (endCommand s).client = s.client := by unfold endCommand; split <;> rfl
@[simp] theorem endCommand_env : (endCommand s).env = s.env := by unfold endCommand; split <;> rfl
@[simp] theorem endCommand_trace : (endCommand s).trace = s.trace := by unfold endCommand; split <;> rfl
@[simp] theorem endCommand_ledOut : (endCommand s).ledOut = s.ledOut := by unfold endCommand; split <;> rfl
@[simp] theorem endCommand_faults : (endCommand s).faults = s.faults := by unfold endCommand; split <;> rfl

end Sys2Proof.Machine
end

