-- ==== Sys2Proof/Laws/Ops.lean ====
section
/-! SUPPORT. What each shared operation of Machine/Ops.lean and Machine/Bus.lean can do, said once. -/

namespace Sys2Proof.Machine

/-! ### The port -/

theorem accept_idle {s : State} (h : s.phase = .idle) (run : State → State) :
    accept s run = .next (run s) := by
  simp [accept, h]

theorem accept_busy {s : State} (h : s.phase ≠ .idle) (run : State → State) :
    accept s run = .fault .heldOff := by
  unfold accept
  split <;> first | rfl | exact absurd ‹_› h

/-- A command is accepted only in `IDLE`, and then its pseudocode is the whole effect (R81). -/
theorem accept_next {s t : State} {run : State → State} :
    accept s run = .next t ↔ s.phase = .idle ∧ t = run s := by
  by_cases h : s.phase = .idle
  · simp [accept_idle h, h, eq_comm]
  · simp [accept_busy h, h]

/-! ### The response -/

@[simp] theorem rspPort_respond (r : CmdWord) (s : State) : rspPort (respond r s) = some r := rfl

/-- A response is on RSP exactly in phase `DONE` (R29, R34). -/
theorem rspPort_eq_some {s : State} {r : CmdWord} : rspPort s = some r ↔ s.phase = .done r := by
  unfold rspPort
  split <;> simp_all

theorem rspPort_eq_none {s : State} : rspPort s = none ↔ ∀ r, s.phase ≠ .done r := by
  unfold rspPort
  split <;> simp_all

theorem endCommand_done {s : State} {r : CmdWord} (h : s.phase = .done r) : endCommand s = { s with phase := .idle } := by
  simp [endCommand, rspPort_eq_some.2 h]

theorem endCommand_none {s : State} (h : rspPort s = none) : endCommand s = s := by
  simp [endCommand, h]

theorem deliver_done {s : State} {r : CmdWord} (h : s.phase = .done r) :
    deliver s = clientReceive r { s with phase := .idle } := by
  simp [deliver, rspPort_eq_some.2 h, endCommand_done h]

/-- Where no response is on RSP there is nothing to deliver. -/
theorem deliver_none {s : State} (h : rspPort s = none) : deliver s = s := by
  simp [deliver, h]

/-- Every meaning is an accepted run: what `exec` does is what the command's run does. -/
def runOf : Instr → State → State
  | .setl i => setlRun i
  | .clr => clrRun
  | .draw => drawRun
  | .rdbtn => rdbtnRun
  | .prox c => fun s => match lutIndex c with
    | some c => proxRun c s
    | none => noEntry c s

theorem exec_eq_accept (i : Instr) (s : State) : exec i s = accept s (runOf i) := by
  cases i <;> rfl

theorem exec_next {i : Instr} {s t : State} :
    exec i s = .next t ↔ s.phase = .idle ∧ t = runOf i s := by
  rw [exec_eq_accept, accept_next]

theorem executeWord_legal {w : CmdWord} {i : Instr} (h : decode w = .legal i) (s : State) :
    executeWord w s = exec i s := by
  simp [executeWord, h]

theorem executeWord_illegal {w : CmdWord} {c : Cause} (h : decode w = .illegal c) (s : State) :
    executeWord w s = accept s (illegalCommand w c) := by
  simp [executeWord, h]

theorem onNext_next {f : State → State} {o : Outcome} {t : State} :
    onNext f o = .next t ↔ ∃ u, o = .next u ∧ f u = t := by
  cases o <;> simp [onNext]

/-! ### The error -/

theorem illegalCommand_eq (w : CmdWord) (c : Cause) (s : State) :
    illegalCommand w c s =
      { s with
        phase := .done (errorResponse (causeCode c))
        faults := if ⟨w, c⟩ ∈ s.faults then s.faults else s.faults ++ [⟨w, c⟩] } := rfl

theorem mem_recordFault (f : IllegalCommand) (s : State) : f ∈ (recordFault f s).faults := by
  rw [recordFault_faults]; split <;> simp_all

theorem faults_subset_recordFault (f : IllegalCommand) (s : State) :
    s.faults ⊆ (recordFault f s).faults := by
  rw [recordFault_faults]; split <;> simp

theorem nodup_recordFault {f : IllegalCommand} {s : State} (h : s.faults.Nodup) :
    (recordFault f s).faults.Nodup := by
  rw [recordFault_faults]
  split
  · exact h
  · rename_i hf
    exact List.nodup_append.2 ⟨h, by simp, by intro a ha b hb; simp at hb; subst hb; exact fun e => hf (e ▸ ha)⟩

/-! ### The latch lines -/

@[simp] theorem ledEdge_high_low : ledEdge .high .low = [.ledFall] := rfl
@[simp] theorem ledEdge_low_high : ledEdge .low .high = [.ledRise] := rfl
@[simp] theorem ledEdge_same (l : Level) : ledEdge l l = [] := by cases l <;> rfl
@[simp] theorem btnEdge_high_low : btnEdge .high .low = [.btnFall] := rfl
@[simp] theorem btnEdge_low_high : btnEdge .low .high = [.btnRise] := rfl
@[simp] theorem btnEdge_same (l : Level) : btnEdge l l = [] := by cases l <;> rfl

/-! ### The environment's script -/

@[simp] theorem writeAnswerOf_cons (a : WriteAnswer) (as : List WriteAnswer) (xs : List XferAnswer)
    (bs : List PlatformAct) (n : Nat) :
    writeAnswerOf ⟨a :: as, xs, bs, n⟩ = a := rfl
@[simp] theorem xferAnswerOf_cons (x : XferAnswer) (as : List WriteAnswer) (xs : List XferAnswer)
    (bs : List PlatformAct) (n : Nat) :
    xferAnswerOf ⟨as, x :: xs, bs, n⟩ = x := rfl
@[simp] theorem afterWrite_cons (a : WriteAnswer) (as : List WriteAnswer) (xs : List XferAnswer)
    (bs : List PlatformAct) (n : Nat) :
    afterWrite ⟨a :: as, xs, bs, n⟩ = ⟨as, xs, bs, n⟩ := rfl
@[simp] theorem afterXfer_cons (x : XferAnswer) (as : List WriteAnswer) (xs : List XferAnswer)
    (bs : List PlatformAct) (n : Nat) :
    afterXfer ⟨as, x :: xs, bs, n⟩ = ⟨as, xs, bs, n⟩ := rfl
@[simp] theorem afterDraw_writes (e : Env) : (afterDraw e).writes = e.writes := rfl
@[simp] theorem afterDraw_xfers (e : Env) : (afterDraw e).xfers = e.xfers := rfl
@[simp] theorem afterDraw_boots (e : Env) : (afterDraw e).boots = e.boots := rfl
@[simp] theorem afterWrite_boots (e : Env) : (afterWrite e).boots = e.boots := by
  unfold afterWrite; split <;> rfl
@[simp] theorem afterXfer_boots (e : Env) : (afterXfer e).boots = e.boots := by
  unfold afterXfer; split <;> rfl
@[simp] theorem afterWrite_xfers (e : Env) : (afterWrite e).xfers = e.xfers := by
  unfold afterWrite; split <;> rfl
@[simp] theorem afterXfer_writes (e : Env) : (afterXfer e).writes = e.writes := by
  unfold afterXfer; split <;> rfl

/-! ### DRAW and RDBTN, each run as one equation per answer -/

/-- The states DRAW's answered run ends in, from latch lines H. -/
theorem finishDraw_eq {s : State} (hl : s.ledLat = .high) (snap : Fb) (w : Bool) :
    finishDraw snap w (issueWrite s) =
      { s with
        phase := .done okResponse
        trace := s.trace ++
          [.write (flushBytes s.fb), if w then .writeOk else .writeFail, .ledFall, .ledRise]
        ledOut := if w then snap else Config.ledOutFree (afterWrite s.env).draws
        env := if w then afterWrite s.env else afterDraw (afterWrite s.env) } := by
  obtain ⟨fb, lut, led, btn, ph, sc, sa, fp, rp, pl, cl, env, tr, lo, fa⟩ := s
  subst hl
  cases w <;>
    simp [finishDraw, issueWrite, writeAnswered, ledReleased, commitLed, freeLedOut, driveLed, record, respond, ledEdge]

theorem drawRun_ok {s : State} (ha : writeAnswerOf s.env = .ok) :
    drawRun s = finishDraw s.fb true (issueWrite s) := by
  simp [drawRun, ha]

theorem drawRun_fail {s : State} (ha : writeAnswerOf s.env = .fail) :
    drawRun s = finishDraw s.fb false (issueWrite s) := by
  simp [drawRun, ha]

theorem drawRun_never {s : State} (ha : writeAnswerOf s.env = .never) : drawRun s = issueWrite s := by
  simp [drawRun, ha]

theorem issueWrite_eq (s : State) :
    issueWrite s = { s with phase := .wWrite s.fb, trace := s.trace ++ [.write (flushBytes s.fb)] } := rfl

/-- The state RDBTN's answered run ends in, from latch lines H. -/
theorem xferAnswered_eq {s : State} (hb : s.btnLat = .high) (r : Option Byte) :
    xferAnswered r (issueXfer (armButton s)) =
      { s with
        phase := .done (dataResponse (buttonByte r))
        trace := s.trace ++
          [.btnFall, .xfer rdbtnTx, match r with | some x => .xferOk x | none => .xferFail, .btnRise]
        env := afterXfer s.env } := by
  obtain ⟨fb, lut, led, btn, ph, sc, sa, fp, rp, pl, cl, env, tr, lo, fa⟩ := s
  subst hb
  cases r <;> simp [issueXfer, armButton, xferAnswered, driveBtn, record, respond, btnEdge]

theorem rdbtnRun_ok {s : State} {x : Byte} (ha : xferAnswerOf s.env = .ok x) :
    rdbtnRun s = xferAnswered (some x) (issueXfer (armButton s)) := by
  simp [rdbtnRun, ha]

theorem rdbtnRun_fail {s : State} (ha : xferAnswerOf s.env = .fail) :
    rdbtnRun s = xferAnswered none (issueXfer (armButton s)) := by
  simp [rdbtnRun, ha]

theorem rdbtnRun_never {s : State} (ha : xferAnswerOf s.env = .never) :
    rdbtnRun s = issueXfer (armButton s) := by
  simp [rdbtnRun, ha]

/-- The state RDBTN hangs in, from latch lines H: BTN_LAT stays L (R117). -/
theorem issueXfer_armButton_eq {s : State} (hb : s.btnLat = .high) :
    issueXfer (armButton s) =
      { s with
        phase := .rXfer
        btnLat := .low
        trace := s.trace ++ [.btnFall, .xfer rdbtnTx] } := by
  obtain ⟨fb, lut, led, btn, ph, sc, sa, fp, rp, pl, cl, env, tr, lo, fa⟩ := s
  subst hb
  simp [issueXfer, armButton, driveBtn, record, btnEdge]

/-! ### Reset -/

/-- Every field a reset leaves before RESET is released or held (R200, R201). -/
theorem resetValues_eq (s : State) :
    resetValues s =
      { s with
        fb := zeroFb
        ledLat := .high
        btnLat := .high
        phase := .idle
        scan := 0
        sample := 0
        fcPhase := .sample
        faults := []
        trace := s.trace ++ (ledEdge s.ledLat .high ++ btnEdge s.btnLat .high)
        ledOut := if s.ledLat = .low then Config.ledOutFree (resetEnv s).draws else s.ledOut
        env := if s.ledLat = .low then afterDraw (resetEnv s) else resetEnv s } := by
  obtain ⟨fb, lut, led, btn, ph, sc, sa, fp, rp, pl, cl, env, tr, lo, fa⟩ := s
  cases led <;> cases btn <;>
    simp [resetValues, resetLatches, resetLedOut, freeLedOut, driveBtn, driveLed, record, ledEdge, btnEdge, resetEnv]

/-- A reset takes no act of the platform. -/
@[simp] theorem resetValues_boots (s : State) : (resetValues s).env.boots = s.env.boots := by
  have h : (resetEnv s).boots = s.env.boots := by unfold resetEnv; split <;> simp
  rw [resetValues_eq]
  by_cases hl : s.ledLat = .low <;> simp [hl, h]

theorem platformReady_iff {p : Platform} : platformReady p = true ↔ p = .clocked true true := by
  cases p <;> simp [platformReady]

/-- The platform comes up in the order of R203: the clock first, then the latch outputs and the bus, one at a time. -/
theorem platformAfter_cases (a : PlatformAct) (p : Platform) :
    (p = .down ∧ (platformAfter a p = .down ∨ platformAfter a p = .clocked false false)) ∨
    (∃ l b, p = .clocked l b ∧
      (platformAfter a p = .clocked l b ∨ platformAfter a p = .clocked true b ∨ platformAfter a p = .clocked l true)) := by
  cases p with
  | down => cases a <;> simp [platformAfter]
  | clocked l b => exact .inr ⟨l, b, rfl, by cases a <;> simp [platformAfter]⟩

/-- Every field a step under RESET leaves: it resets, and then releases RESET if the platform is ready, or lets the platform act
(R200, R203). -/
theorem applyReset_eq (s : State) :
    applyReset s =
      { resetValues s with
        resetPin := s.resetPin && !platformReady s.platform
        platform :=
          if platformReady s.platform then s.platform
          else platformAfter (platformActOf (resetValues s).env) s.platform
        env := if platformReady s.platform then (resetValues s).env else afterBoot (resetValues s).env } := by
  have hp : (resetValues s).platform = s.platform := by rw [resetValues_eq]
  have hr : (resetValues s).resetPin = s.resetPin := by rw [resetValues_eq]
  simp only [applyReset, bringUp, hp]
  cases platformReady s.platform <;> simp [← hp, ← hr]

@[simp] theorem applyReset_fb (s : State) : (applyReset s).fb = zeroFb := by rw [applyReset_eq, resetValues_eq]
@[simp] theorem applyReset_lut (s : State) : (applyReset s).lut = s.lut := by rw [applyReset_eq, resetValues_eq]
@[simp] theorem applyReset_ledLat (s : State) : (applyReset s).ledLat = .high := by rw [applyReset_eq, resetValues_eq]
@[simp] theorem applyReset_btnLat (s : State) : (applyReset s).btnLat = .high := by rw [applyReset_eq, resetValues_eq]
@[simp] theorem applyReset_phase (s : State) : (applyReset s).phase = .idle := by rw [applyReset_eq, resetValues_eq]
@[simp] theorem applyReset_scan (s : State) : (applyReset s).scan = 0 := by rw [applyReset_eq, resetValues_eq]
@[simp] theorem applyReset_sample (s : State) : (applyReset s).sample = 0 := by rw [applyReset_eq, resetValues_eq]
@[simp] theorem applyReset_fcPhase (s : State) : (applyReset s).fcPhase = .sample := by rw [applyReset_eq, resetValues_eq]
@[simp] theorem applyReset_resetPin (s : State) :
    (applyReset s).resetPin = (s.resetPin && !platformReady s.platform) := by
  rw [applyReset_eq, resetValues_eq]
@[simp] theorem applyReset_client (s : State) : (applyReset s).client = s.client := by rw [applyReset_eq, resetValues_eq]
@[simp] theorem applyReset_trace (s : State) : (applyReset s).trace =
    s.trace ++ (ledEdge s.ledLat .high ++ btnEdge s.btnLat .high) := by rw [applyReset_eq, resetValues_eq]
@[simp] theorem applyReset_faults (s : State) : (applyReset s).faults = [] := by rw [applyReset_eq, resetValues_eq]
@[simp] theorem applyReset_ledOut (s : State) :
    (applyReset s).ledOut = if s.ledLat = .low then Config.ledOutFree (resetEnv s).draws else s.ledOut := by
  rw [applyReset_eq, resetValues_eq]

@[simp] theorem applyReset_platform (s : State) :
    (applyReset s).platform =
      if platformReady s.platform then s.platform else platformAfter (platformActOf (resetValues s).env) s.platform := by
  rw [applyReset_eq]

@[simp] theorem rspPort_applyReset (s : State) : rspPort (applyReset s) = none := by simp [rspPort]

end Sys2Proof.Machine
end

