-- ==== Sys2Proof/Laws/Proximity.lean ====
section
/-! SUPPORT. The proximity engine: its squared distance as an integer, and a scan's effect light by light. -/

namespace Sys2Proof.Machine

/-- The squared distance is the exact integer sum of squares (R134). -/
theorem d2_cast (lut : Lut) (a b : LutIdx) :
    (d2 lut a b : Int) =
      (lut[a].x.toInt - lut[b].x.toInt) ^ 2 + (lut[a].y.toInt - lut[b].y.toInt) ^ 2
        + (lut[a].z.toInt - lut[b].z.toInt) ^ 2 := by
  simp only [d2]
  rw [Int.toNat_of_nonneg]
  · ring
  · have h : ∀ n : Int, 0 ≤ n * n := mul_self_nonneg
    have := h (lut[a].x.toInt - lut[b].x.toInt)
    have := h (lut[a].y.toInt - lut[b].y.toInt)
    have := h (lut[a].z.toInt - lut[b].z.toInt)
    omega

theorem near_iff {lut : Lut} {a b : LutIdx} : near lut a b = true ↔ d2 lut a b < 16000000 := by
  simp only [near, radiusSq]
  exact decide_eq_true_iff

/-- An int16 component read as an integer lies in [-32768, 32767] (R130). -/
theorem component_bounds (n : BitVec 16) : -32768 ≤ n.toInt ∧ n.toInt ≤ 32767 := by
  have h1 := BitVec.le_two_mul_toInt (x := n)
  have h2 := BitVec.two_mul_toInt_lt (x := n)
  omega

/-- A light's bit after one entry is evaluated (R138). -/
theorem lightBit_scanEntry (lut : Lut) (c : LutIdx) (fb : Fb) (k : LutIdx) (j : LightIdx) :
    lightBit (scanEntry lut c fb k) j = (decide (near lut c k = true ∧ lightOfEntry k = j) || lightBit fb j) := by
  unfold scanEntry
  split
  · simp_all [lightBit_setLight]
  · simp_all

/-- A light's bit after a list of entries is evaluated: set if one of them is near and has that index. -/
theorem lightBit_scanEntries (lut : Lut) (c : LutIdx) (ks : List LutIdx) (fb : Fb) (j : LightIdx) :
    lightBit (scanEntries lut c ks fb) j = true ↔
      lightBit fb j = true ∨ ∃ k ∈ ks, near lut c k = true ∧ lightOfEntry k = j := by
  induction ks generalizing fb with
  | nil => simp [scanEntries]
  | cons k ks ih =>
    rw [scanEntries, List.foldl_cons, ← scanEntries, ih, lightBit_scanEntry]
    simp only [Bool.or_eq_true, decide_eq_true_eq, List.mem_cons, exists_eq_or_imp]
    tauto

/-- A light's bit after a whole burst (R138). -/
theorem lightBit_burst (lut : Lut) (c : LutIdx) (fb : Fb) (j : LightIdx) :
    lightBit (burst lut c fb) j = true ↔
      lightBit fb j = true ∨ ∃ h : j.val < 61, near lut c ⟨j.val, h⟩ = true := by
  rw [burst, lightBit_scanEntries]
  apply or_congr_right
  constructor
  · rintro ⟨k, -, hk, rfl⟩
    exact ⟨k.isLt, hk⟩
  · rintro ⟨h, hn⟩
    exact ⟨⟨j.val, h⟩, List.mem_finRange _, hn, rfl⟩

theorem lutIndex_lt {c : LightIdx} (h : c.val < 61) : lutIndex c = some ⟨c.val, h⟩ := dif_pos h

theorem lutIndex_ge {c : LightIdx} (h : ¬ c.val < 61) : lutIndex c = none := dif_neg h

end Sys2Proof.Machine
end

