-- ==== Sys2Proof/Laws/Step.lean ====
section
/-! SUPPORT. What one step and one event can do, said once: later proofs cite these cases and do not unfold `step`, `tick` or
`advance`. -/

namespace Sys2Proof.Machine

theorem step_reset {s : State} (h : s.resetPin = true) : step s = .next (applyReset s) := by
  simp [step, h]

theorem step_idle {s : State} (hr : s.resetPin = false) (hp : s.phase = .idle) : step s = clientStep s := by
  simp [step, hr, hp]

theorem step_busy {s : State} (hr : s.resetPin = false) (hp : s.phase ≠ .idle) : step s = advance s := by
  simp only [step, hr]
  rw [if_neg (by simp)]
  split <;> first | rfl | exact absurd ‹_› hp

theorem tick_reset {s : State} (h : s.resetPin = true) : tick s = .next (applyReset s) := by
  simp [tick, h]

theorem tick_idle {s : State} (hr : s.resetPin = false) (hp : s.phase = .idle) : tick s = .next (beginClient s) := by
  simp [tick, hr, hp]

theorem tick_busy {s : State} (hr : s.resetPin = false) (hp : s.phase ≠ .idle) : tick s = advance s := by
  simp only [tick, hr]
  rw [if_neg (by simp)]
  split <;> first | rfl | exact absurd ‹_› hp

/-- Everything a step can do (R81, R119, R200). -/
theorem step_cases {s t : State} (h : step s = .next t) :
    (s.resetPin = true ∧ t = applyReset s) ∨
    (s.resetPin = false ∧ s.phase = .idle ∧ clientStep s = .next t) ∨
    (s.resetPin = false ∧ s.phase ≠ .idle ∧ advance s = .next t) := by
  cases hr : s.resetPin with
  | true => rw [step_reset hr] at h; injection h with h; exact .inl ⟨rfl, h.symm⟩
  | false =>
    by_cases hp : s.phase = .idle
    · exact .inr (.inl ⟨rfl, hp, by rwa [step_idle hr hp] at h⟩)
    · exact .inr (.inr ⟨rfl, hp, by rwa [step_busy hr hp] at h⟩)

/-- Everything an event can be. -/
theorem tick_cases {s t : State} (h : tick s = .next t) :
    (s.resetPin = true ∧ t = applyReset s) ∨
    (s.resetPin = false ∧ s.phase = .idle ∧ t = beginClient s) ∨
    (s.resetPin = false ∧ s.phase ≠ .idle ∧ advance s = .next t) := by
  cases hr : s.resetPin with
  | true => rw [tick_reset hr] at h; injection h with h; exact .inl ⟨rfl, h.symm⟩
  | false =>
    by_cases hp : s.phase = .idle
    · rw [tick_idle hr hp] at h; injection h with h; exact .inr (.inl ⟨rfl, hp, h.symm⟩)
    · exact .inr (.inr ⟨rfl, hp, by rwa [tick_busy hr hp] at h⟩)

/-- The events inside a command, phase by phase (R28). -/
theorem advance_cases {s t : State} (h : advance s = .next t) (hp : s.phase ≠ .idle) :
    (∃ snap, s.phase = .wWrite snap ∧ writeAnswerOf s.env = .ok ∧ t = writeAnswered snap true s) ∨
    (∃ snap, s.phase = .wWrite snap ∧ writeAnswerOf s.env = .fail ∧ t = writeAnswered snap false s) ∨
    (∃ snap w, s.phase = .wLedlo snap w ∧ t = ledReleased snap w s) ∨
    (s.phase = .rBtnlo ∧ t = issueXfer s) ∨
    (∃ x, s.phase = .rXfer ∧ xferAnswerOf s.env = .ok x ∧ t = xferAnswered (some x) s) ∨
    (s.phase = .rXfer ∧ xferAnswerOf s.env = .fail ∧ t = xferAnswered none s) ∨
    (∃ c k, s.phase = .pScan c k ∧ t = scanOne c k s) ∨
    (∃ r, s.phase = .done r ∧ t = clientReceive r { s with phase := .idle }) := by
  unfold advance at h
  split at h
  · exact absurd ‹_› hp
  · rename_i snap hph
    split at h <;> simp only [Host.Outcome.next.injEq, reduceCtorEq] at h
    · exact .inl ⟨snap, hph, ‹_›, h.symm⟩
    · exact .inr (.inl ⟨snap, hph, ‹_›, h.symm⟩)
  · rename_i snap w hph; injection h with h
    exact .inr (.inr (.inl ⟨snap, w, hph, h.symm⟩))
  · rename_i hph; injection h with h
    exact .inr (.inr (.inr (.inl ⟨hph, h.symm⟩)))
  · rename_i hph
    split at h <;> simp only [Host.Outcome.next.injEq, reduceCtorEq] at h
    · exact .inr (.inr (.inr (.inr (.inl ⟨_, hph, ‹_›, h.symm⟩))))
    · exact .inr (.inr (.inr (.inr (.inr (.inl ⟨hph, ‹_›, h.symm⟩)))))
  · rename_i c k hph; injection h with h
    exact .inr (.inr (.inr (.inr (.inr (.inr (.inl ⟨c, k, hph, h.symm⟩))))))
  · rename_i r hph; injection h with h
    exact .inr (.inr (.inr (.inr (.inr (.inr (.inr ⟨r, hph, (deliver_done hph).symm ▸ h.symm⟩))))))

/-- In a hung state there is no step (R119, R177). -/
theorem advance_hung {s : State} (h : hung s) : advance s = .fault .busHang := by
  unfold hung at h
  unfold advance
  split at h <;> simp_all

/-- A step of a machine whose client is the FC (R150). -/
theorem clientStep_fc {s : State} (h : s.client = .frameController) : clientStep s = fcStep s := by
  simp [clientStep, h]

/-- A step of a machine whose client is a harness with a word to offer (R81, R162). -/
theorem clientStep_harness {s : State} {w : CmdWord} {ws rs : List CmdWord} (h : s.client = .harness (w :: ws) rs) :
    clientStep s = onNext deliver (executeWord w { s with client := .harness ws rs }) := by
  simp [clientStep, h]

/-- What the client does with a response touches the client only: the FC's registers, or the responses a harness has taken. -/
theorem clientReceive_eq (r : CmdWord) (s : State) :
    ∃ sa fp cl, clientReceive r s = { s with sample := sa, fcPhase := fp, client := cl } := by
  unfold clientReceive fcReceive
  split
  · split <;> exact ⟨_, _, s.client, rfl⟩
  · exact ⟨s.sample, s.fcPhase, _, rfl⟩

/-- Delivering a response ends the command and touches nothing else but the client. -/
theorem deliver_eq (s : State) :
    ∃ ph sa fp cl, deliver s = { s with phase := ph, sample := sa, fcPhase := fp, client := cl } := by
  cases h : rspPort s with
  | none => exact ⟨s.phase, s.sample, s.fcPhase, s.client, deliver_none h⟩
  | some r =>
    rw [deliver_done (rspPort_eq_some.1 h)]
    obtain ⟨sa, fp, cl, e⟩ := clientReceive_eq r { s with phase := .idle }
    exact ⟨.idle, sa, fp, cl, e⟩

/-- A response delivered to the FC leaves the FC the client. -/
theorem deliver_client_fc {s : State} (h : s.client = .frameController) : (deliver s).client = .frameController := by
  unfold deliver clientReceive fcReceive
  split
  · simp only [endCommand_client, h]
    split <;> simp [h]
  · exact h

/-- The FC's two phases without a command touch its own registers and the record only. -/
theorem fcInternal_eq (s : State) :
    ∃ sc fp tr, fcInternal s = { s with scan := sc, fcPhase := fp, trace := tr } := by
  unfold fcInternal record
  split <;> exact ⟨_, _, _, rfl⟩

theorem steps_zero (s : State) : steps 0 s = .next s := rfl

theorem steps_next {s t : State} (n : Nat) (h : step s = .next t) : steps (n + 1) s = steps n t := by
  simp [steps, h]

theorem ticks_next {s t : State} (n : Nat) (h : tick s = .next t) : ticks (n + 1) s = ticks n t := by
  simp [ticks, h]

/-- A run of `m + n` steps is a run of `m`, then one of `n`. -/
theorem steps_add {s t : State} (m n : Nat) (h : steps m s = .next t) : steps (m + n) s = steps n t := by
  induction m generalizing s with
  | zero => simp only [steps, Host.Outcome.next.injEq] at h; simp [h]
  | succ m ih =>
    rw [Nat.succ_add]
    simp only [steps] at h ⊢
    split at h <;> simp_all

/-- A run of `m + n` events is a run of `m`, then one of `n`. -/
theorem ticks_add {s t : State} (m n : Nat) (h : ticks m s = .next t) : ticks (m + n) s = ticks n t := by
  induction m generalizing s with
  | zero => simp only [ticks, Host.Outcome.next.injEq] at h; simp [h]
  | succ m ih =>
    rw [Nat.succ_add]
    simp only [ticks] at h ⊢
    split at h <;> simp_all

theorem execAll_nil (s : State) : execAll [] s = .next s := rfl

theorem execAll_cons {i : Instr} {is : List Instr} {s t : State} (h : exec i s = .next t) :
    execAll (i :: is) s = execAll is (endCommand t) := by
  simp [execAll, h]

/-- Commands `l ++ m` are the commands `l`, then the commands `m`. -/
theorem execAll_append {l m : List Instr} {s t : State} (h : execAll l s = .next t) :
    execAll (l ++ m) s = execAll m t := by
  induction l generalizing s with
  | nil => simp only [execAll, Host.Outcome.next.injEq] at h; simp [h]
  | cons i l ih =>
    simp only [execAll, List.cons_append] at h ⊢
    split at h <;> simp_all

end Sys2Proof.Machine
end

