-- ==== Sys2Proof/Tests/Slice0.lean ====
section
/-! SUPPORT. Tests. Expected values come from the spec: its encodings (R84, R85) and the vectors of 95_test_vectors.md,
named in each docstring. The last part shows, for every obligation with hypotheses, concrete inputs that meet them. -/

namespace Sys2Proof.Tests

open Sys2Proof Sys2Proof.Machine

/-! ### Well-formedness: the one check refuses centres 61 to 63 (R83) -/

theorem test_wf_prox_60 : (Instr.prox 60).wf = true := by decide
theorem test_illformed_prox_61 : (Instr.prox 61).wf = false := by decide
theorem test_illformed_prox_62 : (Instr.prox 62).wf = false := by decide
theorem test_illformed_prox_63 : (Instr.prox 63).wf = false := by decide
theorem test_wf_setl_63 : (Instr.setl 63).wf = true := by decide

/-! ### Decoding: words written out bit by bit from R84, and the vectors DC-1 to DC-26 -/

theorem test_decode_setl : decode 0b0001_000000_001001 = .legal (.setl 9) := by decide
theorem test_decode_clr : decode 0b0010_000000_000000 = .legal .clr := by decide
theorem test_decode_draw : decode 0b0011_000000_000000 = .legal .draw := by decide
theorem test_decode_rdbtn : decode 0b0100_000000_000000 = .legal .rdbtn := by decide
theorem test_decode_prox : decode 0b0101_000000_111100 = .legal (.prox 60) := by decide

/-- DC-1, DC-2, DC-22 to DC-26 -/
theorem test_decode_reserved_op :
    [0x0000, 0x0FFF, 0x6000, 0x7000, 0x8000, 0xF000, 0xFFFF].map decode = List.replicate 7 (.illegal .reservedOp) := by
  decide

/-- DC-6, DC-7, DC-9, DC-10, DC-12, DC-14, DC-15, DC-20, DC-21 -/
theorem test_decode_reserved_field :
    [0x1040, 0x1FFF, 0x2001, 0x2040, 0x3040, 0x4001, 0x4FFF, 0x5040, 0x507F].map decode =
      List.replicate 9 (.illegal .reservedField) := by
  decide

/-- DC-18, DC-19 -/
theorem test_decode_no_entry : [0x503D, 0x503F].map decode = List.replicate 2 (.illegal .noLutEntry) := by decide

/-- DC-3, DC-5, DC-16 -/
theorem test_decode_ends :
    [0x1000, 0x103F, 0x5000].map decode = [.legal (.setl 0), .legal (.setl 63), .legal (.prox 0)] := by
  decide

/-- The table's rows as the host numbers them. -/
theorem test_decode_table_word :
    decodeTableWord 16 0x1009 = some (.setl 9) ∧ decodeTableWord 16 0x503D = none ∧ decodeTableWord 32 0x2000 = none := by
  decide

theorem test_encode_words :
    encode (.setl 63) = 0x103F ∧ encode .clr = 0x2000 ∧ encode .draw = 0x3000 ∧ encode .rdbtn = 0x4000 ∧
      encode (.prox 60) = 0x503C := by
  decide

/-! ### Small states -/

/-- An entry from its components. -/
def entry (x y z : Int) : LutEntry := ⟨BitVec.ofInt 16 x, BitVec.ofInt 16 y, BitVec.ofInt 16 z⟩

/-- The far cluster's entry of table T1. -/
def farEntry : LutEntry := entry 10000 0 0

/-- Entries 2 to 60 of the test table T1 (95_test_vectors.md 2.4). -/
def t1Tail : List LutEntry :=
  [entry (-8944) 0 8473, entry (-8944) 0 8472, entry 8944 0 (-4473), entry (-8944) 0 4473] ++ List.replicate 3 farEntry
    ++ [entry 32767 32767 32767, entry (-32768) (-32768) (-32768)] ++ List.replicate 50 farEntry

/-- The test table T1. -/
def t1 : Lut := lutOf ⟨⟨t1Tail⟩, by decide⟩

/-- The machine after reset with T1, a given FB and scripted answers, under a harness with nothing to offer. -/
def bench (fb : Fb) (ws : List WriteAnswer) (xs : List XferAnswer) : State :=
  { State.reset with lut := t1, fb := fb, env := ⟨ws, xs, [], 0⟩, client := .harness [] [], ledOut := zeroFb }

/-- The same with the FC as client, in a phase of its frame. -/
def frame (p : FcPhase) (scan : LutIdx) (sample : Byte) (fb : Fb) (ws : List WriteAnswer) (xs : List XferAnswer) : State :=
  { bench fb ws xs with client := .frameController, fcPhase := p, scan := scan, sample := sample }

/-- The same inside a command, with given latch levels. -/
def inside (p : SeqPhase) (led btn : Level) (ws : List WriteAnswer) (xs : List XferAnswer) : State :=
  { bench zeroFb ws xs with phase := p, ledLat := led, btnLat := btn }

/-- A field of the next state, if there is one. -/
def after {α : Type} (f : State → α) : Outcome → Option α
  | .next s => some (f s)
  | .fault _ => none
  | .refused _ => none

/-! ### One step of each command -/

/-- FB-R3, second command: the bank boundary. -/
theorem test_setl_bank_boundary :
    after (fun t => (t.fb, rspPort t)) (exec (.setl 8) (bench #v[0, 0, 0, 0, 0, 0, 0, 0x80] [] [])) =
      some (#v[0, 0, 0, 0, 0, 0, 0x01, 0x80], some 0x0000) := by
  decide

/-- FB-R4, last command: the slots without a LUT entry are legal. -/
theorem test_setl_unused_slot :
    after State.fb (exec (.setl 63) (bench #v[0x60, 0, 0, 0, 0, 0, 0, 0] [] [])) = some #v[0xE0, 0, 0, 0, 0, 0, 0, 0] := by
  decide

/-- FB-C1 -/
theorem test_clr :
    after (fun t => (t.fb, rspPort t)) (exec .clr (bench #v[0xAA, 0x55, 0xFF, 0x00, 0x01, 0x80, 0x7E, 0x81] [] [])) =
      some (#v[0, 0, 0, 0, 0, 0, 0, 0], some 0x0000) := by
  decide

/-- BS-1 -/
theorem test_draw_ok :
    after (fun t => (t.trace, rspPort t, t.ledOut)) (exec .draw (bench #v[0, 0, 0, 0, 0, 0, 0, 0x01] [.ok] [])) =
      some ([.write [0, 0, 0, 0, 0, 0, 0, 0x01], .writeOk, .ledFall, .ledRise], some 0x0000,
        #v[0, 0, 0, 0, 0, 0, 0, 0x01]) := by
  decide

/-- BS-2; LED_OUT may be any value and is not looked at. -/
theorem test_draw_fail :
    after (fun t => (t.trace, rspPort t, t.fb)) (exec .draw (bench #v[0x80, 0, 0, 0, 0, 0, 0x02, 0x01] [.fail] [])) =
      some ([.write [0x80, 0, 0, 0, 0, 0, 0x02, 0x01], .writeFail, .ledFall, .ledRise], some 0x0000,
        #v[0x80, 0, 0, 0, 0, 0, 0x02, 0x01]) := by
  decide

/-- BS-6 -/
theorem test_rdbtn_ok :
    after (fun t => (t.trace, rspPort t)) (exec .rdbtn (bench zeroFb [] [.ok 0xFE])) =
      some ([.btnFall, .xfer 0x00, .xferOk 0xFE, .btnRise], some 0x00FE) := by
  decide

/-- BS-5 -/
theorem test_rdbtn_fail :
    after (fun t => (t.trace, rspPort t)) (exec .rdbtn (bench zeroFb [] [.fail])) =
      some ([.btnFall, .xfer 0x00, .xferFail, .btnRise], some 0x0000) := by
  decide

/-- PX-23: the far cluster, entries 61 to 63 never set. -/
theorem test_prox_cluster :
    after (fun t => (t.fb, rspPort t)) (exec (.prox 6) (bench zeroFb [] [])) =
      some (#v[0x1F, 0xFF, 0xFF, 0xFF, 0xFF, 0xFF, 0xF9, 0xC0], some 0x0000) := by
  decide

/-- PX-20: a pair at distance 0.4 exactly is out, one unit nearer is in. -/
theorem test_prox_boundary :
    after State.fb (exec (.prox 3) (bench zeroFb [] [])) = some #v[0, 0, 0, 0, 0, 0, 0, 0x2D] ∧
      after State.fb (exec (.prox 0) (bench zeroFb [] [])) = some #v[0, 0, 0, 0, 0, 0, 0, 0x2B] := by
  decide

/-- PX-28 and P6: PROX 61 is refused, FB stays, the fault is recorded. -/
theorem test_illegal_word :
    after (fun t => (t.fb, rspPort t, t.faults)) (executeWord 0x503D (bench #v[0, 0, 0, 0, 0, 0, 0, 0x01] [] [])) =
      some (#v[0, 0, 0, 0, 0, 0, 0, 0x01], some 0x8003, [⟨0x503D, .noLutEntry⟩]) := by
  decide

/-! ### Distances -/

/-- PX-1 to PX-3, PX-8 to PX-16 -/
theorem test_distances :
    d2 t1 0 0 = 0 ∧ d2 t1 0 1 = 12285589 ∧ d2 t1 1 0 = 12285589 ∧ d2 t1 0 2 = 16000000 ∧ d2 t1 0 3 = 15992001 ∧
      d2 t1 2 3 = 1 ∧ d2 t1 0 4 = 400011460 ∧ d2 t1 0 5 = 0 ∧ d2 t1 0 6 = 378882865 ∧ d2 t1 1 2 = 52141589 ∧
      d2 t1 1 3 = 52127626 ∧ d2 t1 9 10 = 12884508675 := by
  decide

/-- PX-16 in the 34-bit accumulator (R136). -/
theorem test_accumulator_maximum : (d2Acc t1 9 10).toNat = 12884508675 ∧ nearAcc t1 9 10 = false := by decide

/-! ### The Frame Controller -/

/-- FC-2: bit 0 of 0xFE is 0, so BASE; and the wrap of R156. -/
theorem test_fc_base_and_wrap : fillWord 0xFE 60 = 0x103C ∧ scanNext 60 = 0 := by decide

/-- FC-3, FC-4 -/
theorem test_fc_burst : fillWord 0x01 0 = 0x5000 ∧ fillWord 0xFF 0 = 0x5000 := by decide

/-- P4, frame 1: a failed transfer samples 0x00. -/
theorem test_fc_sample_fail :
    after (fun t => (t.sample, t.fcPhase)) (step (frame .sample 7 0xFF zeroFb [] [.fail])) = some (0x00, .fill) := by
  decide

/-- A word placed by the host is the one the next step runs. -/
theorem test_fetch_runs_the_word :
    after State.fb (step (State.reset.withFetchWord 16 0x1009)) = some #v[0, 0, 0, 0, 0, 0, 0x02, 0] := by
  decide

/-- P6: a harness gets the error response, and none is left on RSP. -/
theorem test_harness_takes_the_response :
    after (fun t => (t.client, rspPort t)) (step { bench zeroFb [] [] with client := .harness [0x503D, 0x1001] [] }) =
      some (.harness [0x1001] [0x8003], none) := by
  decide

/-- R201: a reset inside the pulse raises the line, sends no response and keeps the LUT. -/
theorem test_reset_inside_pulse :
    after (fun t => (t.trace, rspPort t, t.lut[(3 : LutIdx)], t.resetPin))
      (step { inside (.wLedlo zeroFb true) .low .high [] [] with resetPin := true }) =
      some ([.ledRise], none, entry (-8944) 0 8472, false) := by
  decide

/-! ### The assembler -/

theorem test_asm_hex_and_comment :
    assembleLine "  prox 0x3C\t; sixty".toList = .word 0x503C ∧ assembleLine "CLR 0".toList = .error := by
  decide

/-! ### Concrete inputs that meet the hypotheses of the obligations, each theorem named after its obligation -/

/-- A framebuffer that is not zero. -/
def someFb : Fb := #v[0x80, 0, 0, 0, 0, 0, 0x02, 0x01]

theorem test_hyp_SetlSetsExactlyItsBit :
    (bench someFb [] []).phase = .idle ∧ lightBit (bench someFb [] []).fb 63 = true ∧
      opField 0x1040 = 0x1 ∧ rsvField 0x1040 ≠ 0 := by decide

theorem test_hyp_ClrZeroesTheFramebuffer :
    (bench someFb [] []).phase = .idle ∧ opField 0x2001 = 0x2 ∧ (0x2001#16 : CmdWord) ≠ 0x2000#16 := by decide

theorem test_hyp_ClearThenSetLightsExactlyOneBit : (bench someFb [] []).phase = .idle := by decide

theorem test_hyp_FramebufferIsOrOfLightsInAnyOrder :
    (bench someFb [] []).phase = .idle ∧ [Instr.setl 61, Instr.prox 60].Perm [Instr.prox 60, Instr.setl 61] ∧
      ∀ i ∈ [Instr.setl 61, Instr.prox 60], i.wf = true ∧ i ≠ .clr ∧ i ≠ .draw ∧ i ≠ .rdbtn := by decide

theorem test_hyp_OnlyClrClearsFramebufferBits :
    (∃ t, exec (.setl 0) (bench someFb [] []) = .next t ∧ lightBit (bench someFb [] []).fb 63 = true) ∧
      (∃ t, exec .draw (bench someFb [.ok] []) = .next t) ∧ (∃ t, exec .rdbtn (bench someFb [] [.fail]) = .next t) :=
  ⟨⟨_, rfl, by decide⟩, ⟨_, rfl⟩, ⟨_, rfl⟩⟩

theorem test_hyp_FramebufferSeenOnlyThroughDraw : (0x4000#16 : CmdWord) ≠ 0x3000#16 := by decide

theorem test_hyp_FramebufferCommandsAreIdempotent :
    ∃ t, exec (.prox 0) (bench someFb [] []) = .next t ∧ Instr.prox 0 ≠ .draw ∧ Instr.prox 0 ≠ .rdbtn :=
  ⟨_, rfl, by decide, by decide⟩

theorem test_hyp_DrawShowsWhatWasBuiltSinceClr :
    (bench someFb [.ok] []).phase = .idle ∧ latchesIdle (bench someFb [.ok] []) ∧
      writeAnswerOf (bench someFb [.ok] []).env = .ok ∧
      ∀ i ∈ [Instr.setl 63, Instr.prox 0], i.wf = true ∧ i ≠ .clr ∧ i ≠ .draw ∧ i ≠ .rdbtn := by
  unfold latchesIdle; decide

theorem test_hyp_FlushSendsBanksInOrder : (bench someFb [.never] []).phase = .idle := by decide

theorem test_hyp_DrawWritesThenPulses :
    (bench someFb [.ok] []).phase = .idle ∧ latchesIdle (bench someFb [.ok] []) ∧
      writeAnswerOf (bench someFb [.ok] []).env = .ok ∧ writeAnswerOf (bench someFb [.fail] []).env = .fail ∧
      opField 0x3040 = 0x3 ∧ (0x3040#16 : CmdWord) ≠ 0x3000#16 := by
  unfold latchesIdle; decide

theorem test_hyp_RdbtnReturnsTheButtonByte :
    (bench someFb [] [.ok 0xFE]).phase = .idle ∧ latchesIdle (bench someFb [] [.ok 0xFE]) ∧
      xferAnswerOf (bench someFb [] [.ok 0xFE]).env = .ok 0xFE ∧ xferAnswerOf (bench someFb [] [.fail]).env = .fail ∧
      opField 0x4001 = 0x4 ∧ (0x4001#16 : CmdWord) ≠ 0x4000#16 := by
  unfold latchesIdle; decide

theorem test_hyp_OnlyTheTracesOfTheTable :
    latchesIdle (bench someFb [] []) ∧
      (∃ t, exec .draw (bench someFb [.ok] []) = .next t) ∧ (∃ t, exec .draw (bench someFb [.fail] []) = .next t) ∧
      (∃ t, exec .draw (bench someFb [.never] []) = .next t) ∧
      (∃ t, exec .rdbtn (bench someFb [] [.ok 1]) = .next t) ∧ (∃ t, exec .rdbtn (bench someFb [] [.fail]) = .next t) ∧
      (∃ t, exec .rdbtn (bench someFb [] [.never]) = .next t) :=
  ⟨⟨rfl, rfl⟩, ⟨_, rfl⟩, ⟨_, rfl⟩, ⟨_, rfl⟩, ⟨_, rfl⟩, ⟨_, rfl⟩, ⟨_, rfl⟩⟩

theorem test_hyp_OneTransactionPerBusCommand :
    (∃ t, exec .draw (bench someFb [.ok] []) = .next t) ∧ (∃ t, exec .rdbtn (bench someFb [] [.fail]) = .next t) ∧
      ∃ t, exec (.setl 5) (bench someFb [] []) = .next t :=
  ⟨⟨_, rfl⟩, ⟨_, rfl⟩, ⟨_, rfl⟩⟩

theorem test_hyp_HangEndsOnlyByReset :
    latchesIdle (bench someFb [.never] [.never]) ∧ (bench someFb [.never] [.never]).phase = .idle ∧
      (bench someFb [.never] [.never]).resetPin = false ∧
      (∃ t, exec .draw (bench someFb [.never] [.never]) = .next t) ∧
      (∃ t, exec .rdbtn (bench someFb [.never] [.never]) = .next t) ∧
      writeAnswerOf (bench someFb [.never] [.never]).env = .never ∧
      xferAnswerOf (bench someFb [.never] [.never]).env = .never :=
  ⟨⟨rfl, rfl⟩, rfl, rfl, ⟨_, rfl⟩, ⟨_, rfl⟩, rfl, rfl⟩

theorem test_hyp_LedOutChangesOnlyAtThePulse :
    (∃ t, tick (inside (.wLedlo someFb true) .low .high [] []) = .next t ∧
      t.ledOut ≠ (inside (.wLedlo someFb true) .low .high [] []).ledOut) ∧
      (∃ t, tick (inside (.wLedlo someFb false) .low .high [] []) = .next t) ∧
      (∃ t, tick (inside (.wWrite someFb) .high .high [.ok] []) = .next t ∧ t.phase = .wLedlo someFb true) ∧
      (∃ t, tick (inside (.wWrite someFb) .high .high [.fail] []) = .next t ∧ t.phase = .wLedlo someFb false) ∧
      (inside (.wLedlo someFb true) .low .high [] []).resetPin = false ∧
      (inside (.wLedlo someFb true) .low .high [] []).ledLat = .low :=
  ⟨⟨_, rfl, by decide⟩, ⟨_, rfl⟩, ⟨_, rfl, rfl⟩, ⟨_, rfl, rfl⟩, rfl, rfl⟩

/-- The bound on the components holds of a table of the far entry, and not of T1, whose entry 9 exceeds it. -/
theorem test_hyp_AccumulatorNeverOverflows :
    ∀ k : LutIdx, (Vector.replicate 61 farEntry)[k].x.toInt.natAbs ≤ 10000 ∧
      (Vector.replicate 61 farEntry)[k].y.toInt.natAbs ≤ 10000 ∧ (Vector.replicate 61 farEntry)[k].z.toInt.natAbs ≤ 10000 := by
  decide

theorem test_hyp_DotProductFormIsExact :
    sourceEntries t1 ∧ normSq t1 6 = 100000000 ∧ normSq t1 60 = 100000000 := by
  unfold sourceEntries; decide

theorem test_hyp_ProxLightsTheNearSet :
    (bench someFb [] []).phase = .idle ∧ (60 : LightIdx).val < 61 ∧ 61 ≤ (61 : LightIdx).val ∧ 61 ≤ (63 : LightIdx).val := by
  decide

theorem test_hyp_BurstContainsItsCentre : (bench someFb [] []).phase = .idle := by decide

theorem test_hyp_BurstFromZeroIsTheNearSet :
    (bench zeroFb [] []).phase = .idle ∧ (bench zeroFb [] []).fb = zeroFb ∧ sourceEntries (bench zeroFb [] []).lut := by
  unfold sourceEntries; decide

theorem test_hyp_ScanOrderIsFree : (List.finRange 61).reverse.Perm (List.finRange 61) := List.reverse_perm _

theorem test_hyp_LutIsReadOnlyAndOnlyProxReadsIt :
    (∃ t, step (frame .fill 0 1 zeroFb [] []) = .next t) ∧ (∃ t, tick (inside (.pScan 0 60) .high .high [] []) = .next t) ∧
      opField 0x3000 ≠ 0x5 :=
  ⟨⟨_, rfl⟩, ⟨_, rfl⟩, by decide⟩

theorem test_hyp_TableMasksSelectTheCommand :
    opField 0x0FFF = 0x0 ∧ (0x6#4 : BitVec 4) ≤ opField 0x6000 ∧ (0x6#4 : BitVec 4) ≤ opField 0xF000 := by decide

theorem test_hyp_DecodeOfEncode : (Instr.prox 60).wf = true ∧ (Instr.setl 63).wf = true := by decide

theorem test_hyp_StepRunsTheDecodedCommand :
    (bench someFb [] []).resetPin = false ∧ (bench someFb [] []).phase = .idle ∧ decode 0x503C = .legal (.prox 60) ∧
      { bench someFb [] [] with client := .harness [0x503C] [0x8001] }.client = .harness (0x503C :: []) [0x8001] ∧
      (frame .fill 60 1 zeroFb [] []).client = .frameController ∧ fcWord (frame .fill 60 1 zeroFb [] []) = some 0x503C ∧
      rspPort (bench someFb [] []) = none ∧
      rspPort { frame .sample 60 0 zeroFb [] [] with phase := .done 0x00FE } = some 0x00FE ∧
      rspPort (inside (.done 0x8003) .high .high [] []) = some 0x8003 ∧
      (inside (.done 0x8003) .high .high [] []).client = .harness [] [] := by
  decide

theorem test_hyp_BusyUnitHoldsTheOffer :
    (inside (.wWrite zeroFb) .high .high [.ok] []).phase ≠ .idle ∧
      (∃ t, step (inside (.wWrite zeroFb) .high .high [.ok] []) = .next t) ∧
      (inside (.done 0x8003) .high .high [] []).phase ≠ .idle ∧
      ∃ t, step (inside (.done 0x8003) .high .high [] []) = .next t ∧ t.client = .harness [] [0x8003] :=
  ⟨by decide, ⟨_, rfl⟩, by decide, _, rfl, rfl⟩

/-- One word of each clause: illegal, RDBTN answered and failed, another legal command. -/
theorem test_hyp_ResponseWordFormat :
    after rspPort (executeWord 0x7000 (bench someFb [] [])) = some (some 0x8001) ∧
      decode 0x7000 = .illegal .reservedOp ∧
      after rspPort (executeWord 0x4000 (bench someFb [] [.ok 0xFE])) = some (some 0x00FE) ∧
      after rspPort (executeWord 0x4000 (bench someFb [] [.fail])) = some (some 0x0000) ∧
      decode 0x4000 = .legal .rdbtn ∧
      after rspPort (executeWord 0x103F (bench someFb [] [])) = some (some 0x0000) ∧
      decode 0x103F = .legal (.setl 63) := by
  decide

theorem test_hyp_IllegalWordHasNoEffect :
    (bench someFb [] []).phase = .idle ∧ decode 0x503D = .illegal .noLutEntry := by decide

/-- The words where the causes meet: OP 0x5 and 0x6, IDX 60 and 61, RSV 0 and 1, a plain command with and without IDX. -/
theorem test_hyp_CausesInPriorityOrder :
    decode 0x5FFF = .illegal .reservedField ∧ decode 0x6000 = .illegal .reservedOp ∧
      decode 0x503C = .legal (.prox 60) ∧ decode 0x503D = .illegal .noLutEntry ∧ decode 0x507D = .illegal .reservedField ∧
      decode 0x2001 = .illegal .reservedField ∧ decode 0x1001 = .legal (.setl 1) := by
  decide

theorem test_hyp_OnlyIllegalWordsRaiseTheError :
    (∃ t, executeWord 0x1001 (bench someFb [] []) = .next t) ∧ decode 0x1001 = .legal (.setl 1) ∧
      (∃ t, executeWord 0x0000 (bench someFb [] []) = .next t) ∧ decode 0x0000 = .illegal .reservedOp :=
  ⟨⟨_, rfl⟩, by decide, ⟨_, rfl⟩, by decide⟩

theorem test_hyp_FaultsAreNeverCleared :
    (∃ t, step { bench someFb [] [] with client := .harness [0x3000] [], faults := [⟨0x503D, .noLutEntry⟩] } = .next t) ∧
      (∃ t, tick { bench someFb [] [] with client := .harness [0x3000] [], faults := [⟨0x503D, .noLutEntry⟩] } = .next t) ∧
      (bench someFb [] []).resetPin = false :=
  ⟨⟨_, rfl⟩, ⟨_, rfl⟩, rfl⟩

theorem test_hyp_ResetPutsEveryResetValue :
    { frame .flush 60 1 someFb [.never] [] with resetPin := true }.resetPin = true := by decide

/-- A reset inside DRAW's pulse, inside RDBTN's, and with both lines H. -/
theorem test_hyp_ResetAbortsAnyCommand :
    (∃ t, tick { inside (.wLedlo someFb true) .low .high [] [] with resetPin := true } = .next t) ∧
      (∃ t, tick { inside .rXfer .high .low [] [.never] with resetPin := true } = .next t) ∧
      (∃ t, tick { inside (.wWrite someFb) .high .high [.never] [] with resetPin := true } = .next t) ∧
      { inside .rXfer .high .low [] [.never] with resetPin := true }.client = .harness [] [] :=
  ⟨⟨_, rfl⟩, ⟨_, rfl⟩, ⟨_, rfl⟩, rfl⟩

/-- A machine under RESET, with what the platform provides and what it will do. -/
def booting (p : Platform) (as : List PlatformAct) : State :=
  { bench someFb [] [] with resetPin := true, platform := p, env := ⟨[], [], as, 0⟩ }

/-- R203: the acts of the platform, in the order the rule gives, and one that comes before the clock, which provides nothing. -/
theorem test_hyp_ResetHeldUntilThePlatformIsReady :
    after (fun t => (t.platform, t.resetPin)) (step (booting (.clocked true true) [])) = some (.clocked true true, false) ∧
      after (fun t => (t.platform, t.resetPin)) (step (booting .down [.nothing])) = some (.down, true) ∧
      after (fun t => (t.platform, t.resetPin)) (step (booting .down [.latchOutputs])) = some (.down, true) ∧
      after (fun t => (t.platform, t.resetPin)) (step (booting .down [.clock])) = some (.clocked false false, true) ∧
      after (fun t => (t.platform, t.resetPin)) (step (booting (.clocked false true) [.latchOutputs])) =
        some (.clocked true true, true) ∧
      after (fun t => (t.platform, t.resetPin)) (step (booting (.clocked false false) [.busService])) =
        some (.clocked false true, true) := by
  decide

/-- R203: from nothing, the three acts in their order and then the release. -/
theorem test_boot_order :
    after (fun t => (t.platform, t.resetPin)) (steps 4 (booting .down [.clock, .busService, .latchOutputs])) =
      some (.clocked true true, false) := by
  decide

/-- The three answers of the transfer. -/
theorem test_hyp_SamplePhaseReadsTheButton :
    (frame .sample 60 0 zeroFb [] [.ok 1]).client = .frameController ∧ (frame .sample 60 0 zeroFb [] [.ok 1]).resetPin = false ∧
      (frame .sample 60 0 zeroFb [] [.ok 1]).phase = .idle ∧ (frame .sample 60 0 zeroFb [] [.ok 1]).fcPhase = .sample ∧
      latchesIdle (frame .sample 60 0 zeroFb [] [.ok 1]) ∧
      xferAnswerOf (frame .sample 60 0 zeroFb [] [.ok 1]).env = .ok 1 ∧
      xferAnswerOf (frame .sample 60 0 zeroFb [] [.fail]).env = .fail ∧
      xferAnswerOf (frame .sample 60 0 zeroFb [] [.never]).env = .never := by
  unfold latchesIdle; decide

/-- Both branches: bit 0 of 0xFE is 0, of 0x01 it is 1. -/
theorem test_hyp_FillPhaseSelectsTheBranch :
    (frame .fill 60 0xFE zeroFb [] []).client = .frameController ∧ (frame .fill 60 0xFE zeroFb [] []).resetPin = false ∧
      (frame .fill 60 0xFE zeroFb [] []).phase = .idle ∧ (frame .fill 60 0xFE zeroFb [] []).fcPhase = .fill ∧
      (frame .fill 60 0xFE zeroFb [] []).sample.getLsbD 0 = false ∧
      (frame .fill 60 0x01 zeroFb [] []).sample.getLsbD 0 = true := by
  decide

/-- The three answers of the write. -/
theorem test_hyp_FlushPhaseCommitsTheFrame :
    (frame .flush 0 0 someFb [.ok] []).client = .frameController ∧ (frame .flush 0 0 someFb [.ok] []).resetPin = false ∧
      (frame .flush 0 0 someFb [.ok] []).phase = .idle ∧ (frame .flush 0 0 someFb [.ok] []).fcPhase = .flush ∧
      latchesIdle (frame .flush 0 0 someFb [.ok] []) ∧
      writeAnswerOf (frame .flush 0 0 someFb [.ok] []).env = .ok ∧
      writeAnswerOf (frame .flush 0 0 someFb [.fail] []).env = .fail ∧
      writeAnswerOf (frame .flush 0 0 someFb [.never] []).env = .never := by
  unfold latchesIdle; decide

theorem test_hyp_WaitPhaseDelaysOnce :
    (frame .wait 0 0 someFb [] []).client = .frameController ∧ (frame .wait 0 0 someFb [] []).resetPin = false ∧
      (frame .wait 0 0 someFb [] []).phase = .idle ∧ (frame .wait 0 0 someFb [] []).fcPhase = .wait := by decide

theorem test_hyp_ClearPhaseClearsTheFramebuffer :
    (frame .clear 0 0 someFb [] []).client = .frameController ∧ (frame .clear 0 0 someFb [] []).resetPin = false ∧
      (frame .clear 0 0 someFb [] []).phase = .idle ∧ (frame .clear 0 0 someFb [] []).fcPhase = .clear := by decide

theorem test_hyp_AdvancePhaseStepsTheScanIndex :
    (frame .advance 60 0 zeroFb [] []).client = .frameController ∧ (frame .advance 60 0 zeroFb [] []).resetPin = false ∧
      (frame .advance 60 0 zeroFb [] []).phase = .idle ∧ (frame .advance 60 0 zeroFb [] []).fcPhase = .advance := by decide

/-- A phase that completes, and the two that hang. -/
theorem test_hyp_FramePhasesInTheFixedCycle :
    (frame .advance 60 0 zeroFb [] []).client = .frameController ∧ (frame .advance 60 0 zeroFb [] []).resetPin = false ∧
      (frame .advance 60 0 zeroFb [] []).phase = .idle ∧
      after State.fcPhase (step (frame .advance 60 0 zeroFb [] [])) = some .sample ∧
      after State.phase (step (frame .sample 0 0 zeroFb [] [.never])) = some .rXfer ∧
      after State.phase (step (frame .flush 0 0 zeroFb [.never] [])) = some (.wWrite zeroFb) := by
  decide

theorem test_hyp_FrameControllerIssuesOnlyLegalCommands :
    fcWord (frame .sample 60 0 zeroFb [] []) = some 0x4000 ∧ fcWord (frame .fill 60 1 zeroFb [] []) = some 0x503C ∧
      fcWord (frame .fill 60 0 zeroFb [] []) = some 0x103C := by
  decide

/-- Two starts of a frame with different histories and samples that agree in bit 0. -/
theorem test_hyp_BranchDependsOnlyOnThisFramesBit :
    frameStart (frame .sample 5 0 zeroFb [.ok] [.ok 0x01]) ∧ frameStart (frame .sample 5 0xFF zeroFb [] [.ok 0xFF]) ∧
      after (fun t => t.sample.getLsbD 0) (steps 2 (frame .sample 5 0 zeroFb [.ok] [.ok 0x01])) = some true ∧
      after (fun t => t.sample.getLsbD 0) (steps 2 (frame .sample 5 0xFF zeroFb [] [.ok 0xFF])) = some true := by
  unfold frameStart latchesIdle noFault; decide

theorem test_hyp_FrameInvariantKeptByEveryStep :
    FcInv (frame .sample 60 0 zeroFb [] [.ok 1]) ∧ ∃ t, step (frame .sample 60 0 zeroFb [] [.ok 1]) = .next t :=
  ⟨⟨rfl, rfl, rfl, .inl rfl⟩, _, rfl⟩

theorem test_hyp_FlushSendsTheFramesSet :
    FcInv (frame .flush 0 0 #v[0, 0, 0, 0, 0, 0, 0, 1] [.ok] []) ∧
      latchesIdle (frame .flush 0 0 #v[0, 0, 0, 0, 0, 0, 0, 1] [.ok] []) ∧
      FcInv (frame .flush 0 1 #v[0, 0, 0, 0, 0, 0, 0, 0x2B] [.ok] []) ∧
      ∃ t, step (frame .flush 0 0 #v[0, 0, 0, 0, 0, 0, 0, 1] [.ok] []) = .next t :=
  ⟨⟨rfl, rfl, by show _ = frameFb _ _ _; decide, .inl rfl⟩, ⟨rfl, rfl⟩,
    ⟨rfl, rfl, by show _ = frameFb _ _ _; decide, .inl rfl⟩, _, rfl⟩

/-- The start of a frame whose next `n` frames find every transaction answered. -/
def answered (n : Nat) (scan : LutIdx) : State :=
  frame .sample scan 0 zeroFb (List.replicate n .ok) (List.replicate n (.ok 0xFE))

/-- One whole frame with SCAN = 60 wraps (FC-2), and 61 frames bring SCAN back (R159). -/
theorem test_hyp_ScanIndexHasPeriod61 :
    frameStart (answered 1 60) ∧ after State.scan (steps (6 * 1) (answered 1 60)) = some 0 ∧
      frameStart (answered 61 5) ∧ after State.scan (steps (6 * 61) (answered 61 5)) = some 5 := by
  unfold frameStart latchesIdle noFault; decide

/-- FC-3 and FC-5 with a failed write. -/
theorem test_hyp_AnsweredFrameCompletesInSixSteps :
    frameStart (frame .sample 0 0 zeroFb [.ok] [.ok 0x01]) ∧
      xferAnswerOf (frame .sample 0 0 zeroFb [.ok] [.ok 0x01]).env = .ok 0x01 ∧
      writeAnswerOf (afterXfer (frame .sample 0 0 zeroFb [.ok] [.ok 0x01]).env) = .ok ∧
      frameStart (frame .sample 7 0 zeroFb [.fail] [.fail]) ∧
      xferAnswerOf (frame .sample 7 0 zeroFb [.fail] [.fail]).env = .fail ∧
      writeAnswerOf (afterXfer (frame .sample 7 0 zeroFb [.fail] [.fail]).env) = .fail := by
  unfold frameStart latchesIdle noFault; decide

/-- The invariant holds in a state of each kind: idle, and inside a pulse. -/
theorem test_hyp_InvariantKeptByEveryStep :
    CuInv (frame .fill 60 1 someFb [] []) ∧ (∃ t, step (frame .fill 60 1 someFb [] []) = .next t) ∧
      atRest (frame .fill 60 1 someFb [] []) ∧ hung (inside (.wWrite zeroFb) .high .high [.never] []) ∧
      ∃ t, step { inside (.wWrite zeroFb) .high .high [.never] [] with resetPin := true } = .next t :=
  ⟨⟨⟨rfl, rfl⟩, trivial, ⟨rfl, rfl⟩, .nil⟩, ⟨_, rfl⟩, .inl rfl, rfl, _, rfl⟩

theorem test_hyp_InvariantKeptByEveryEvent :
    CuInv (inside (.wLedlo zeroFb true) .low .high [] []) ∧ ∃ t, tick (inside (.wLedlo zeroFb true) .low .high [] []) = .next t :=
  ⟨⟨⟨rfl, rfl⟩, rfl, ⟨rfl, rfl⟩, .nil⟩, _, rfl⟩

/-- An event that enters each of the phases the clauses speak of. -/
theorem test_hyp_LatchesAreExclusiveAtEveryEvent :
    CuInv { bench someFb [] [] with client := .harness [0x3000] [] } ∧
      after State.phase (tick { bench someFb [] [] with client := .harness [0x3000] [] }) = some (.wWrite someFb) ∧
      CuInv (inside .rBtnlo .high .low [] []) ∧
      after State.phase (tick (inside .rBtnlo .high .low [] [])) = some .rXfer ∧
      CuInv (inside (.done 0) .high .high [] []) ∧
      after State.phase (tick (inside (.done 0) .high .high [] [])) = some .idle :=
  ⟨⟨⟨rfl, rfl⟩, trivial, ⟨rfl, rfl⟩, .nil⟩, by decide, ⟨⟨rfl, rfl⟩, trivial, ⟨rfl, rfl⟩, .nil⟩, by decide,
    ⟨⟨rfl, rfl⟩, trivial, ⟨rfl, rfl⟩, .nil⟩, by decide⟩

theorem test_hyp_StepIsARunOfEvents : ∃ t, step (frame .fill 60 1 zeroFb [] []) = .next t := ⟨_, rfl⟩

end Sys2Proof.Tests
end

section
/-! PROOFS. The framebuffer is write-only (R23): every legal word is the encoding of its command, and no command but DRAW
tells anything of FB. -/

namespace Sys2Proof

/-! ### A legal word is the encoding of its command -/

/-- The `OP` value of an operation (R84). -/
def opCode : Op → BitVec 4
  | .setl => 0x1
  | .clr => 0x2
  | .draw => 0x3
  | .rdbtn => 0x4
  | .prox => 0x5

theorem eq_opCode_of_opOf_eq_some {o : BitVec 4} {op : Op} (h : opOf o = some op) : o = opCode op := by
  unfold opOf at h
  split_ifs at h
  all_goals
    cases h
    assumption

theorem noOperand_eq_legal {i j : Instr} {idx : LightIdx} (h : noOperand i idx = .legal j) : idx = 0 ∧ i = j := by
  by_cases hidx : idx = 0
  · rw [hidx, noOperand_zero] at h
    exact ⟨hidx, Decoded.legal.inj h⟩
  · rw [noOperand_ne hidx] at h
    cases h

/-- The decoder reads a command from no word but the command's own encoding (R84, R86). -/
theorem encode_eq_of_decode_eq_legal {w : CmdWord} {i : Instr} (h : decode w = .legal i) : encode i = w := by
  unfold decode at h
  split at h
  case h_1 => cases h
  case h_2 op hop =>
    obtain hrsv | hrsv := ne_or_eq (rsvField w) 0
    · rw [if_pos hrsv] at h
      cases h
    rw [if_neg (not_not.mpr hrsv)] at h
    have hw : commandWord (opCode op) (idxField w) = w :=
      eq_opCode_of_opOf_eq_some hop ▸ commandWord_fields hrsv
    cases op with
    | setl => cases h; exact hw
    | clr => obtain ⟨hidx, rfl⟩ := noOperand_eq_legal h; rwa [hidx] at hw
    | draw => obtain ⟨hidx, rfl⟩ := noOperand_eq_legal h; rwa [hidx] at hw
    | rdbtn => obtain ⟨hidx, rfl⟩ := noOperand_eq_legal h; rwa [hidx] at hw
    | prox =>
      dsimp only at h
      split_ifs at h
      cases h
      exact hw

end Sys2Proof

namespace Sys2Proof.Machine

/-! ### Runs that tell nothing of FB -/

/-- The state with FB hidden: every FB is shown as the same one. -/
def hideFb (s : State) : State := { s with fb := zeroFb }

/-- A run is FB-blind when its result, FB hidden, is the same whether or not FB was hidden beforehand. -/
def FbBlind (run : State → State) : Prop := ∀ s, hideFb (run s) = hideFb (run (hideFb s))

/-- SETL, CLR and PROX have this form: whatever they write to FB, they respond with a fixed word. -/
theorem fbBlind_respond_writeFb (r : CmdWord) (newFb : State → Fb) :
    FbBlind fun s => respond r { s with fb := newFb s } := fun _ => rfl

theorem fbBlind_illegalCommand (w : CmdWord) (cause : Cause) : FbBlind (illegalCommand w cause) := fun _ => rfl

/-- RDBTN goes by the bus's answer, which the environment gives without FB. -/
theorem fbBlind_rdbtnRun : FbBlind rdbtnRun := by
  intro s
  have henv : (hideFb s).env = s.env := rfl
  cases ha : xferAnswerOf s.env with
  | ok x => rw [rdbtnRun_ok ha, rdbtnRun_ok (henv ▸ ha)]; rfl
  | fail => rw [rdbtnRun_fail ha, rdbtnRun_fail (henv ▸ ha)]; rfl
  | never => rw [rdbtnRun_never ha, rdbtnRun_never (henv ▸ ha)]; rfl

theorem runOf_prox_lt {c : LightIdx} (hc : c.val < 61) : runOf (.prox c) = proxRun ⟨c.val, hc⟩ := by
  funext s
  simp only [runOf, lutIndex_lt hc]

/-- PROX 61 to 63 is the error of a centre with no LUT entry (R172). -/
theorem runOf_prox_ge {c : LightIdx} (hc : ¬ c.val < 61) : runOf (.prox c) = noEntry c := by
  funext s
  simp only [runOf, lutIndex_ge hc]

theorem fbBlind_runOf {i : Instr} (hi : i ≠ .draw) : FbBlind (runOf i) := by
  cases i with
  | setl l => exact fbBlind_respond_writeFb okResponse fun s => setLight s.fb l
  | clr => exact fbBlind_respond_writeFb okResponse fun _ => zeroFb
  | draw => exact absurd rfl hi
  | rdbtn => exact fbBlind_rdbtnRun
  | prox c =>
    by_cases hc : c.val < 61
    · rw [runOf_prox_lt hc]
      exact fbBlind_respond_writeFb okResponse fun s => burst s.lut ⟨c.val, hc⟩ s.fb
    · rw [runOf_prox_ge hc]
      exact fbBlind_illegalCommand (encode (.prox c)) .noLutEntry

/-! ### Outcomes -/

/-- Whether a command is accepted is the phase's matter, not FB's. -/
theorem onNext_hideFb_accept {run : State → State} (hrun : FbBlind run) (s : State) :
    onNext hideFb (accept s run) = onNext hideFb (accept (hideFb s) run) := by
  have hphase : (hideFb s).phase = s.phase := rfl
  by_cases hidle : s.phase = .idle
  · rw [accept_idle hidle, accept_idle (hphase.trans hidle)]
    exact congrArg Host.Outcome.next (hrun s)
  · rw [accept_busy hidle, accept_busy (hphase ▸ hidle)]

/-- Every word but DRAW's, the illegal ones included. -/
theorem onNext_hideFb_executeWord {w : CmdWord} (hw : w ≠ encode .draw) (s : State) :
    onNext hideFb (executeWord w s) = onNext hideFb (executeWord w (hideFb s)) := by
  cases hd : decode w with
  | legal i =>
    have hi : i ≠ .draw := by
      rintro rfl
      exact hw (encode_eq_of_decode_eq_legal hd).symm
    simp only [executeWord_legal hd, exec_eq_accept]
    exact onNext_hideFb_accept (fbBlind_runOf hi) s
  | illegal c =>
    simp only [executeWord_illegal hd]
    exact onNext_hideFb_accept (fbBlind_illegalCommand w c) s

/-- Settles O8: both outcomes, FB hidden, are those of the one state in which FB is hidden beforehand. -/
theorem framebufferSeenOnlyThroughDraw : Obligations.FramebufferSeenOnlyThroughDraw := by
  intro w s f g hw
  have hdraw : w ≠ encode .draw := hw
  calc onNext hideFb (executeWord w { s with fb := f })
      = onNext hideFb (executeWord w (hideFb s)) := onNext_hideFb_executeWord hdraw { s with fb := f }
    _ = onNext hideFb (executeWord w { s with fb := g }) :=
        (onNext_hideFb_executeWord hdraw { s with fb := g }).symm

end Sys2Proof.Machine
end

section
/-! PROOFS. The address translator (R51) and the order of the flush (R55). -/

namespace Sys2Proof.Machine

/-! ### The address translator -/

@[simp] theorem bankOf_val (i : LightIdx) : (bankOf i).val = 7 - i.val / 8 := rfl

@[simp] theorem bitOf_val (i : LightIdx) : (bitOf i).val = i.val % 8 := rfl

theorem lightBit_eq_getLsbD (fb : Fb) (i : LightIdx) :
    lightBit fb i = fb[bankOf i].getLsbD (bitOf i).val := rfl

/-- Settles O1: the bit of light i is the translated bit of the translated bank. -/
theorem translatorMapsIndexToBankAndBit : Obligations.TranslatorMapsIndexToBankAndBit :=
  fun i fb => ⟨bankOf_val i, bitOf_val i, lightBit_eq_getLsbD fb i⟩

/-! ### The flush -/

theorem flushBytes_length (fb : Fb) : (flushBytes fb).length = 8 := rfl

/-- Byte b of the flush is bank b (R55). -/
theorem flushBytes_getElem? (fb : Fb) (b : Fin 8) : (flushBytes fb)[b.val]? = some fb[b] := by
  fin_cases b <;> rfl

@[simp] theorem issueWrite_trace (s : State) :
    (issueWrite s).trace = s.trace ++ [.write (flushBytes s.fb)] := rfl

@[simp] theorem writeAnswered_trace (snap : Fb) (w : Bool) (s : State) :
    (writeAnswered snap w s).trace =
      s.trace ++ [if w then .writeOk else .writeFail] ++ ledEdge s.ledLat .low := rfl

@[simp] theorem commitLed_trace (snap : Fb) (w : Bool) (s : State) : (commitLed snap w s).trace = s.trace := by
  cases w <;> rfl

@[simp] theorem ledReleased_trace (snap : Fb) (w : Bool) (s : State) :
    (ledReleased snap w s).trace = s.trace ++ ledEdge s.ledLat .high := by
  rw [ledReleased, commitLed_trace, driveLed_trace, respond_trace, respond_ledLat]

/-- What follows the write only adds to the record, from any levels of the latch lines. -/
theorem finishDraw_trace (snap : Fb) (w : Bool) (s : State) :
    (finishDraw snap w s).trace =
      s.trace ++ ((if w then .writeOk else .writeFail) :: ledEdge s.ledLat .low ++ [.ledRise]) := by
  have hlow : (writeAnswered snap w s).ledLat = .low := rfl
  simp [finishDraw, hlow]

/-- Whatever the bus answers, the write stands directly after the old record. -/
theorem drawRun_trace (s : State) :
    ∃ later, (drawRun s).trace = s.trace ++ .write (flushBytes s.fb) :: later := by
  have hanswered (w : Bool) :
      ∃ later, (finishDraw s.fb w (issueWrite s)).trace = s.trace ++ .write (flushBytes s.fb) :: later := by
    rw [finishDraw_trace, issueWrite_trace, List.append_assoc]
    exact ⟨_, rfl⟩
  cases ha : writeAnswerOf s.env with
  | ok => rw [drawRun_ok ha]; exact hanswered true
  | fail => rw [drawRun_fail ha]; exact hanswered false
  | never => rw [drawRun_never ha]; exact ⟨[], issueWrite_trace s⟩

/-- Settles O11: the write DRAW issues stands first after the old record, and its bytes are the flush of FB. -/
theorem flushSendsBanksInOrder : Obligations.FlushSendsBanksInOrder := by
  intro s hidle
  have hexec : exec .draw s = .next (drawRun s) := exec_next.mpr ⟨hidle, rfl⟩
  have hwrite : (drawRun s).trace[s.trace.length]? = some (.write (flushBytes s.fb)) := by
    obtain ⟨later, htrace⟩ := drawRun_trace s
    simp [htrace]
  exact ⟨drawRun s, flushBytes s.fb, hexec, hwrite, flushBytes_length s.fb, flushBytes_getElem? s.fb⟩

end Sys2Proof.Machine
end

section
/-! PROOFS. The decoder (R84 to R86): its checks as three lemmas over the opcode map, its inverse on encodings, and the
table's masks in terms of the fields. -/

namespace Sys2Proof

/-! ### The opcode map -/

theorem opOf_eq_some_iff {o : BitVec 4} {op : Op} : opOf o = some op ↔ o = opCode op := by
  constructor
  · exact eq_opCode_of_opOf_eq_some
  · rintro rfl
    cases op <;> rfl

theorem opOf_eq_none_iff {o : BitVec 4} : opOf o = none ↔ o = 0x0 ∨ 0x6#4 ≤ o := by
  revert o
  decide

/-! ### The decoder's checks, in their order -/

/-- What an operation makes of the IDX field, once OP and RSV have passed (R83, R86). -/
def decodeOperand : Op → LightIdx → Decoded
  | .setl, idx => .legal (.setl idx)
  | .clr, idx => noOperand .clr idx
  | .draw, idx => noOperand .draw idx
  | .rdbtn, idx => noOperand .rdbtn idx
  | .prox, idx => if idx.val < 61 then .legal (.prox idx) else .illegal .noLutEntry

theorem decode_of_opOf_none {w : CmdWord} (hop : opOf (opField w) = none) :
    decode w = .illegal .reservedOp := by
  simp only [decode, hop]

theorem decode_of_rsvField_ne {w : CmdWord} {op : Op} (hop : opField w = opCode op) (hrsv : rsvField w ≠ 0) :
    decode w = .illegal .reservedField := by
  simp only [decode, opOf_eq_some_iff.mpr hop, if_pos hrsv]

theorem decode_of_rsvField_eq {w : CmdWord} {op : Op} (hop : opField w = opCode op) (hrsv : rsvField w = 0) :
    decode w = decodeOperand op (idxField w) := by
  simp only [decode, opOf_eq_some_iff.mpr hop, if_neg (not_not.mpr hrsv)]
  cases op <;> rfl

/-- Settles O27: each check of the rule, on the numbers, is the decoder's check on the field. -/
theorem decoderChecksInOrder : Obligations.DecoderChecksInOrder := by
  intro w op rsv idx
  have hopNat : (opField w).toNat = op := opField_toNat w
  have hrsvNat : rsvField w = 0 ↔ rsv = 0 := by
    rw [← BitVec.toNat_inj, rsvField_toNat]
    rfl
  have hidx : idxField w = ⟨idx, Nat.mod_lt _ (by decide)⟩ := Fin.ext (idxField_val w)
  cases hop : opOf (opField w) with
  | none =>
    have hreserved : op = 0 ∨ 6 ≤ op := by
      simpa [← BitVec.toNat_inj, BitVec.le_def, hopNat] using opOf_eq_none_iff.mp hop
    rw [decode_of_opOf_none hop, if_pos hreserved]
  | some o =>
    have hcode : op = (opCode o).toNat := by rw [← hopNat, opOf_eq_some_iff.mp hop]
    have hnamed : ¬ (op = 0 ∨ 6 ≤ op) := by
      rw [hcode]
      cases o <;> decide
    rw [if_neg hnamed]
    by_cases hrsv : rsv = 0
    · rw [decode_of_rsvField_eq (opOf_eq_some_iff.mp hop) (hrsvNat.mpr hrsv), if_neg (not_not.mpr hrsv), hidx, hcode]
      cases o with
      | setl | clr | draw | rdbtn => simp [decodeOperand, opCode, noOperand]
      | prox =>
        by_cases hlut : idx < 61
        · simp [decodeOperand, opCode, hlut, not_le.mpr hlut]
        · simp [decodeOperand, opCode, hlut, not_lt.mp hlut]
    · rw [decode_of_rsvField_ne (opOf_eq_some_iff.mp hop) (mt hrsvNat.mp hrsv), if_pos hrsv]

/-! ### The decoder on encodings -/

theorem decode_commandWord (op : Op) (idx : LightIdx) :
    decode (commandWord (opCode op) idx) = decodeOperand op idx := by
  rw [decode_of_rsvField_eq (opField_commandWord _ _) (rsvField_commandWord _ _), idxField_commandWord]

/-- A PROX with no LUT entry is the only term whose encoding is illegal (R85). -/
theorem decode_encode (i : Instr) :
    decode (encode i) = if i.wf then .legal i else .illegal .noLutEntry := by
  cases i with
  | setl l => exact decode_commandWord .setl l
  | clr => exact decode_commandWord .clr 0
  | draw => exact decode_commandWord .draw 0
  | rdbtn => exact decode_commandWord .rdbtn 0
  | prox c =>
    calc decode (commandWord 0x5 c) = decodeOperand .prox c := decode_commandWord .prox c
      _ = if (Instr.prox c).wf then .legal (.prox c) else .illegal .noLutEntry := by simp [decodeOperand, Instr.wf]

theorem decode_eq_legal_iff {w : CmdWord} {i : Instr} : decode w = .legal i ↔ i.wf = true ∧ encode i = w := by
  constructor
  · intro hd
    obtain rfl := encode_eq_of_decode_eq_legal hd
    rw [decode_encode] at hd
    split_ifs at hd with hwf
    exact ⟨hwf, rfl⟩
  · rintro ⟨hwf, rfl⟩
    rw [decode_encode, if_pos hwf]

/-! ### The table's masks -/

/-- The mask of the two commands with an operand keeps OP and RSV (R84). -/
theorem and_operandMask_eq_iff {w : CmdWord} {op : BitVec 4} :
    w &&& 0xFFC0#16 = commandWord op 0 ↔ opField w = op ∧ rsvField w = 0 := by
  have hkeep : (w &&& 0xFFC0#16).toNat = w.toNat / 64 * 64 := by
    rw [show (0xFFC0#16 : CmdWord) = BitVec.allOnes 16 <<< 6 from rfl, ← BitVec.shiftLeft_ushiftRight]
    simp
    omega
  simp only [← BitVec.toNat_inj, hkeep, commandWord_toNat, opField_toNat, rsvField_toNat,
    BitVec.ofNat_eq_ofNat, BitVec.toNat_zero, Fin.val_zero]
  omega

theorem commandWord_eq_iff {w : CmdWord} {op : BitVec 4} {idx : LightIdx} :
    commandWord op idx = w ↔ w &&& 0xFFC0#16 = commandWord op 0 ∧ idxField w = idx := by
  rw [and_operandMask_eq_iff]
  constructor
  · rintro rfl
    exact ⟨⟨opField_commandWord op idx, rsvField_commandWord op idx⟩, idxField_commandWord op idx⟩
  · rintro ⟨⟨rfl, hrsv⟩, rfl⟩
    exact commandWord_fields hrsv

/-- The mask of a command without an operand keeps the whole word (R84). -/
theorem decode_eq_legal_iff_and_wholeMask {w : CmdWord} {i : Instr} (hwf : i.wf = true) :
    decode w = .legal i ↔ w &&& 0xFFFF#16 = encode i := by
  have hkeep : w &&& 0xFFFF#16 = w := BitVec.and_allOnes
  rw [decode_eq_legal_iff, hkeep, eq_comm (a := w), and_iff_right hwf]

/-- Settles O28: a row's mask and match say that the word is the encoding of a legal command. -/
theorem tableMasksSelectTheCommand : Obligations.TableMasksSelectTheCommand := by
  have hreserved {w : CmdWord} (hop : opField w = 0x0 ∨ 0x6#4 ≤ opField w) : decode w = .illegal .reservedOp :=
    decode_of_opOf_none (opOf_eq_none_iff.mpr hop)
  refine ⟨fun w => ⟨fun i => ?setl, ?clr, ?draw, ?rdbtn, fun c => ?prox, hreserved⟩, hreserved (.inl rfl)⟩
  case setl =>
    calc decode w = .legal (.setl i) ↔ commandWord 0x1 i = w := by simp [decode_eq_legal_iff, Instr.wf, encode]
      _ ↔ w &&& 0xFFC0#16 = commandWord 0x1 0 ∧ idxField w = i := commandWord_eq_iff
  case clr => exact decode_eq_legal_iff_and_wholeMask rfl
  case draw => exact decode_eq_legal_iff_and_wholeMask rfl
  case rdbtn => exact decode_eq_legal_iff_and_wholeMask rfl
  case prox =>
    calc decode w = .legal (.prox c) ↔ commandWord 0x5 c = w ∧ c.val < 61 := by
          simp [decode_eq_legal_iff, Instr.wf, encode, and_comm]
      _ ↔ w &&& 0xFFC0#16 = commandWord 0x5 0 ∧ idxField w = c ∧ c.val < 61 := by
          rw [commandWord_eq_iff, and_assoc]

end Sys2Proof
end

section
/-! PROOFS. The response word (R82): which word each performed command and each illegal word answers with, and its fields. -/

namespace Sys2Proof.Machine

/-! ### The fields of the two forms of response -/

/-- The error response is a byte over DATA, as `dataResponse` is by definition. -/
theorem errorResponse_eq_append (v : Byte) : errorResponse v = (0x80#8 ++ v : BitVec 16) := rfl

theorem errBit_append (hi v : Byte) : errBit (hi ++ v : BitVec 16) = hi.getLsbD 7 := by
  rw [errBit, BitVec.getLsbD_append]
  rfl

theorem zeroBits_append (hi v : Byte) : (hi ++ v : BitVec 16).extractLsb' 8 7 = hi.extractLsb' 0 7 :=
  BitVec.extractLsb'_append_eq_of_le (by decide)

theorem dataField_append (hi v : Byte) : dataField (hi ++ v : BitVec 16) = v :=
  BitVec.extractLsb'_append_eq_right

@[simp] theorem zeroBits_dataResponse (v : Byte) : (dataResponse v).extractLsb' 8 7 = 0#7 := zeroBits_append 0x00 v

@[simp] theorem errBit_dataResponse (v : Byte) : errBit (dataResponse v) = false := errBit_append 0x00 v

@[simp] theorem dataField_dataResponse (v : Byte) : dataField (dataResponse v) = v := dataField_append 0x00 v

@[simp] theorem zeroBits_errorResponse (v : Byte) : (errorResponse v).extractLsb' 8 7 = 0#7 := by
  rw [errorResponse_eq_append]
  exact zeroBits_append 0x80 v

@[simp] theorem errBit_errorResponse (v : Byte) : errBit (errorResponse v) = true := by
  rw [errorResponse_eq_append]
  exact errBit_append 0x80 v

@[simp] theorem dataField_errorResponse (v : Byte) : dataField (errorResponse v) = v := by
  rw [errorResponse_eq_append]
  exact dataField_append 0x80 v

theorem okResponse_eq_dataResponse : okResponse = dataResponse 0x00 := rfl

/-! ### The response of each run -/

/-- The byte that a transfer with this answer received, 0x00 if none (R114, R115). -/
def receivedByte : XferAnswer → Byte
  | .ok x => x
  | .fail => 0x00
  | .never => 0x00

theorem rspPort_finishDraw (snap : Fb) (w : Bool) (s : State) :
    rspPort (finishDraw snap w s) = some okResponse := by
  cases w <;> rfl

theorem rspPort_drawRun {s : State} {r : CmdWord} (hr : rspPort (drawRun s) = some r) : r = okResponse := by
  cases ha : writeAnswerOf s.env with
  | ok => rw [drawRun_ok ha, rspPort_finishDraw] at hr; exact (Option.some.inj hr).symm
  | fail => rw [drawRun_fail ha, rspPort_finishDraw] at hr; exact (Option.some.inj hr).symm
  | never => rw [drawRun_never ha] at hr; cases hr

theorem rspPort_rdbtnRun {s : State} {r : CmdWord} (hr : rspPort (rdbtnRun s) = some r) :
    r = dataResponse (receivedByte (xferAnswerOf s.env)) := by
  cases ha : xferAnswerOf s.env with
  | ok x => rw [rdbtnRun_ok ha] at hr; exact (Option.some.inj hr).symm
  | fail => rw [rdbtnRun_fail ha] at hr; exact (Option.some.inj hr).symm
  | never => rw [rdbtnRun_never ha] at hr; cases hr

/-- Every performed command but RDBTN answers without data, if it answers (R82). -/
theorem rspPort_runOf_of_ne_rdbtn {i : Instr} {s : State} {r : CmdWord} (hwf : i.wf = true) (hi : i ≠ .rdbtn)
    (hr : rspPort (runOf i s) = some r) : r = okResponse := by
  cases i with
  | setl => exact (Option.some.inj hr).symm
  | clr => exact (Option.some.inj hr).symm
  | draw => exact rspPort_drawRun hr
  | rdbtn => exact absurd rfl hi
  | prox c =>
    rw [runOf_prox_lt (of_decide_eq_true hwf)] at hr
    exact (Option.some.inj hr).symm

theorem executeWord_legal_next {w : CmdWord} {i : Instr} {s t : State} (hd : decode w = .legal i)
    (hnext : executeWord w s = .next t) : t = runOf i s := by
  rw [executeWord_legal hd] at hnext
  exact (exec_next.mp hnext).2

theorem response_of_illegal {w r : CmdWord} {c : Cause} {s t : State} (hd : decode w = .illegal c)
    (hnext : executeWord w s = .next t) (hr : rspPort t = some r) : r = errorResponse (causeCode c) := by
  rw [executeWord_illegal hd] at hnext
  obtain ⟨-, rfl⟩ := accept_next.mp hnext
  exact (Option.some.inj hr).symm

/-- Settles O34: an illegal word, RDBTN and any other command each answer with one form of response. -/
theorem responseWordFormat : Obligations.ResponseWordFormat := by
  intro w r s t hnext hr
  cases hd : decode w with
  | illegal c =>
    obtain rfl := response_of_illegal hd hnext hr
    simp
  | legal i =>
    obtain rfl := executeWord_legal_next hd hnext
    by_cases hi : i = .rdbtn
    · subst hi
      obtain rfl := rspPort_rdbtnRun hr
      simp +contextual [receivedByte]
    · obtain rfl := rspPort_runOf_of_ne_rdbtn (decode_eq_legal_iff.mp hd).1 hi hr
      simp [okResponse_eq_dataResponse, hi]

end Sys2Proof.Machine
end

section
/-! PROOFS. The framebuffer family, SETL and CLR (R100, R101, R103): their words, their effect on FB bit by bit, and their
frame. -/

namespace Sys2Proof

/-! ### The words of the family -/

/-- The word of SETL is 0x1000 with the index in the IDX field (R100). -/
theorem encode_setl_eq_or (i : LightIdx) : encode (.setl i) = 0x1000#16 ||| BitVec.ofNat 16 i.val := by
  revert i
  decide

/-- A command without an operand is alone of its OP: any other word fails the RSV check or the IDX check (R86). -/
theorem decode_of_ne_operandless {w : CmdWord} {op : Op} {i : Instr} (hop : opField w = opCode op)
    (hoperand : decodeOperand op = noOperand i) (hw : w ≠ commandWord (opCode op) 0) :
    decode w = .illegal .reservedField := by
  by_cases hrsv : rsvField w = 0
  · have hidx : idxField w ≠ 0 := by
      intro hidx
      have hfields := commandWord_fields hrsv
      rw [hop, hidx] at hfields
      exact hw hfields.symm
    rw [decode_of_rsvField_eq hop hrsv, hoperand, noOperand_ne hidx]
  · exact decode_of_rsvField_ne hop hrsv

end Sys2Proof

namespace Sys2Proof.Machine

/-! ### The framebuffer -/

theorem address_eq_iff {i : LightIdx} {b k : Fin 8} :
    (bankOf i = b ∧ bitOf i = k) ↔ (b.val = 7 - i.val / 8 ∧ k.val = i.val % 8) := by
  rw [Fin.ext_iff, Fin.ext_iff, bankOf_val, bitOf_val, eq_comm, eq_comm (a := i.val % 8)]

@[simp] theorem lightBit_setLight_self (fb : Fb) (i : LightIdx) : lightBit (setLight fb i) i = true := by
  simp [lightBit_setLight]

/-- Setting a light that is set changes nothing (R100). -/
theorem setLight_of_lightBit {fb : Fb} {i : LightIdx} (hset : lightBit fb i = true) : setLight fb i = fb := by
  apply fb_ext_light
  intro j
  rw [lightBit_setLight]
  by_cases hij : i = j
  · simp [← hij, hset]
  · simp [hij]

theorem zeroFb_getElem (b : Fin 8) : zeroFb[b] = 0x00#8 := Vector.getElem_replicate b.isLt

/-! ### The two runs: what they write and what they leave -/

@[simp] theorem setlRun_fb (i : LightIdx) (s : State) : (setlRun i s).fb = setLight s.fb i := rfl

@[simp] theorem clrRun_fb (s : State) : (clrRun s).fb = zeroFb := rfl

theorem exec_setl {s : State} (hidle : s.phase = .idle) (i : LightIdx) : exec (.setl i) s = .next (setlRun i s) :=
  exec_next.mpr ⟨hidle, rfl⟩

theorem exec_clr {s : State} (hidle : s.phase = .idle) : exec .clr s = .next (clrRun s) :=
  exec_next.mpr ⟨hidle, rfl⟩

/-- Taking the response at once undoes responding in `IDLE`. -/
theorem endCommand_respond {s : State} (hidle : s.phase = .idle) (r : CmdWord) : endCommand (respond r s) = s := by
  rw [endCommand_done (respond_phase s r), ← hidle]
  rfl

theorem endCommand_setlRun {s : State} (hidle : s.phase = .idle) (i : LightIdx) :
    endCommand (setlRun i s) = { s with fb := setLight s.fb i } :=
  endCommand_respond (s := { s with fb := setLight s.fb i }) hidle okResponse

theorem endCommand_clrRun {s : State} (hidle : s.phase = .idle) : endCommand (clrRun s) = { s with fb := zeroFb } :=
  endCommand_respond (s := { s with fb := zeroFb }) hidle okResponse

/-! ### The statements -/

/-- Settles O3: SETL's run writes FB only, by `setLight`, which sets the translated bit. -/
theorem setlSetsExactlyItsBit : Obligations.SetlSetsExactlyItsBit := by
  intro i s hidle
  have hword : decode (0x1000#16 ||| BitVec.ofNat 16 i.val) = .legal (.setl i) :=
    decode_eq_legal_iff.mpr ⟨rfl, encode_setl_eq_or i⟩
  have hrsv (w : CmdWord) (hop : opField w = 0x1) (hw : rsvField w ≠ 0) : decode w = .illegal .reservedField :=
    decode_of_rsvField_ne (op := .setl) hop hw
  refine ⟨hword, hrsv, setlRun i s, exec_setl hidle i, fun b k => ?bits, setLight_of_lightBit, rfl, ?frame⟩
  case bits => simp only [setlRun_fb, fbBit_setLight, address_eq_iff]
  case frame => rw [endCommand_setlRun hidle]

/-- Settles O4: CLR's run writes FB only, with `zeroFb`. -/
theorem clrZeroesTheFramebuffer : Obligations.ClrZeroesTheFramebuffer := by
  intro s hidle
  have hother (w : CmdWord) (hop : opField w = 0x2) (hw : w ≠ 0x2000#16) : decode w = .illegal .reservedField :=
    decode_of_ne_operandless (op := .clr) (i := .clr) hop rfl hw
  refine ⟨decode_encode .clr, hother, clrRun s, exec_clr hidle, zeroFb_getElem, rfl, ?frame⟩
  rw [endCommand_clrRun hidle]

/-- Settles O5: one bit is set over `zeroFb`, and a second SETL finds its bit set. -/
theorem clearThenSetLightsExactlyOneBit : Obligations.ClearThenSetLightsExactlyOneBit := by
  intro i s hidle
  refine ⟨?clearThenSet, ?setTwice, clrRun s, exec_clr hidle, zeroFb_getElem⟩
  case clearThenSet =>
    have hcleared : (endCommand (clrRun s)).phase = .idle := by rw [endCommand_clrRun hidle, hidle]
    refine ⟨endCommand (setlRun i (endCommand (clrRun s))), ?_, fun b k => ?_⟩
    · rw [execAll_cons (exec_clr hidle), execAll_cons (exec_setl hcleared i), execAll_nil]
    · simp [fbBit_setLight, address_eq_iff]
  case setTwice =>
    have hset : (endCommand (setlRun i s)).phase = .idle := by rw [endCommand_setlRun hidle, hidle]
    refine ⟨setlRun i s, setlRun i (endCommand (setlRun i s)), exec_setl hidle i, exec_setl hset i, ?_⟩
    calc (setlRun i (endCommand (setlRun i s))).fb = setLight (setLight s.fb i) i := by simp
      _ = setLight s.fb i := setLight_of_lightBit (lightBit_setLight_self s.fb i)

end Sys2Proof.Machine
end

section
/-! PROOFS. The two bus commands, DRAW (R110, R111) and RDBTN (R114, R115): the state each answered run ends in, the one
transaction each issues (R118), and the one event that changes LED_OUT (R112). -/

namespace Sys2Proof.Machine

/-! ### The answered runs, from latch lines H: a response, over a state in which only the records and the environment moved -/

theorem exec_draw {s : State} (hidle : s.phase = .idle) : exec .draw s = .next (drawRun s) :=
  exec_next.mpr ⟨hidle, rfl⟩

theorem exec_rdbtn {s : State} (hidle : s.phase = .idle) : exec .rdbtn s = .next (rdbtnRun s) :=
  exec_next.mpr ⟨hidle, rfl⟩

/-- The pulse comes whatever the answer, which decides only what LED_OUT becomes (R111, R112). -/
theorem drawRun_answered {s : State} {a : WriteAnswer} (hled : s.ledLat = .high) (ha : writeAnswerOf s.env = a)
    (hanswered : a ≠ .never) :
    drawRun s = respond okResponse
      { s with
        trace := s.trace ++
          [.write (flushBytes s.fb), if a = .ok then .writeOk else .writeFail, .ledFall, .ledRise]
        ledOut := if a = .ok then s.fb else Config.ledOutFree (afterWrite s.env).draws
        env := if a = .ok then afterWrite s.env else afterDraw (afterWrite s.env) } := by
  cases a with
  | ok => rw [drawRun_ok ha, finishDraw_eq hled]; rfl
  | fail => rw [drawRun_fail ha, finishDraw_eq hled]; rfl
  | never => exact absurd rfl hanswered

/-- The record of a transfer's end: the byte received, or the failure. -/
def xferEvent (received : Option Byte) : Event := received.elim .xferFail .xferOk

theorem xferAnswered_eq_respond {s : State} (hbtn : s.btnLat = .high) (received : Option Byte) :
    xferAnswered received (issueXfer (armButton s)) = respond (dataResponse (buttonByte received))
      { s with
        trace := s.trace ++ [.btnFall, .xfer rdbtnTx, xferEvent received, .btnRise]
        env := afterXfer s.env } := by
  rw [xferAnswered_eq hbtn]
  cases received <;> rfl

/-- An answered RDBTN goes by the byte received, or by its absence (R115). -/
theorem rdbtnRun_answered {s : State} {a : XferAnswer} (ha : xferAnswerOf s.env = a) (hanswered : a ≠ .never) :
    ∃ received, rdbtnRun s = xferAnswered received (issueXfer (armButton s)) ∧
      ((∃ x, a = .ok x ∧ received = some x) ∨ (a = .fail ∧ received = none)) := by
  cases a with
  | ok x => exact ⟨some x, rdbtnRun_ok ha, .inl ⟨x, rfl, rfl⟩⟩
  | fail => exact ⟨none, rdbtnRun_fail ha, .inr ⟨rfl, rfl⟩⟩
  | never => exact absurd rfl hanswered

/-- A write uses up the script's next answer, if the script holds one. -/
@[simp] theorem afterWrite_writes (e : Env) : (afterWrite e).writes = e.writes.tail := by
  obtain ⟨writes, xfers, boots, draws⟩ := e
  cases writes <;> rfl

/-- Settles O12: the answered run is a response over the old state with the record, LED_OUT and the environment moved. -/
theorem drawWritesThenPulses : Obligations.DrawWritesThenPulses := by
  intro s a hidle hlatches ha hanswered
  have hother (w : CmdWord) (hop : opField w = 0x3) (hw : w ≠ 0x3000#16) : decode w = .illegal .reservedField :=
    decode_of_ne_operandless (op := .draw) (i := .draw) hop rfl hw
  refine ⟨decode_encode .draw, hother, drawRun s, exec_draw hidle, ?_⟩
  rw [drawRun_answered hlatches.1 ha hanswered]
  refine ⟨rfl, rfl, hlatches, ?commit, ?xfers, ?writes, ?frame⟩
  case commit => rintro rfl; exact ⟨rfl, rfl⟩
  case xfers => by_cases hok : a = .ok <;> simp [hok]
  case writes => by_cases hok : a = .ok <;> simp [hok]
  case frame => rw [endCommand_respond]; exact hidle

/-- Settles O13: the answered run is a response over the old state with the record and the environment moved. -/
theorem rdbtnReturnsTheButtonByte : Obligations.RdbtnReturnsTheButtonByte := by
  intro s a hidle hlatches ha hanswered
  have hother (w : CmdWord) (hop : opField w = 0x4) (hw : w ≠ 0x4000#16) : decode w = .illegal .reservedField :=
    decode_of_ne_operandless (op := .rdbtn) (i := .rdbtn) hop rfl hw
  obtain ⟨received, hrun, hreceived⟩ := rdbtnRun_answered ha hanswered
  refine ⟨decode_encode .rdbtn, hother, rdbtnRun s, buttonByte received, xferEvent received, exec_rdbtn hidle, ?byte, ?_⟩
  case byte =>
    obtain ⟨x, rfl, rfl⟩ | ⟨rfl, rfl⟩ := hreceived
    · exact .inl ⟨x, rfl, rfl, rfl⟩
    · exact .inr ⟨rfl, rfl, rfl⟩
  rw [hrun, xferAnswered_eq_respond hlatches.2]
  refine ⟨rfl, rfl, hlatches, rfl, ?frame⟩
  rw [endCommand_respond]
  exact hidle

/-! ### One transaction per bus command, from any levels of the latch lines -/

@[simp] theorem countP_ledEdge (l l' : Level) : (ledEdge l l').countP issuesTransaction = 0 := by
  cases l <;> cases l' <;> rfl

@[simp] theorem countP_btnEdge (l l' : Level) : (btnEdge l l').countP issuesTransaction = 0 := by
  cases l <;> cases l' <;> rfl

@[simp] theorem issuesTransaction_xferEvent (received : Option Byte) :
    issuesTransaction (xferEvent received) = false := by
  cases received <;> rfl

@[simp] theorem armButton_trace (s : State) : (armButton s).trace = s.trace ++ btnEdge s.btnLat .low := rfl

@[simp] theorem issueXfer_trace (s : State) : (issueXfer s).trace = s.trace ++ [.xfer rdbtnTx] := rfl

@[simp] theorem xferAnswered_trace (received : Option Byte) (s : State) :
    (xferAnswered received s).trace = s.trace ++ [xferEvent received] ++ btnEdge s.btnLat .high := by
  cases received <;> rfl

theorem countP_issueWrite (s : State) :
    (issueWrite s).trace.countP issuesTransaction = s.trace.countP issuesTransaction + 1 := by
  simp [issuesTransaction]

/-- What follows the write issues no further one: a failed write is not tried again (R118). -/
theorem countP_finishDraw (snap : Fb) (written : Bool) (s : State) :
    (finishDraw snap written s).trace.countP issuesTransaction = s.trace.countP issuesTransaction := by
  cases written <;> simp [finishDraw_trace, issuesTransaction]

theorem countP_drawRun (s : State) :
    (drawRun s).trace.countP issuesTransaction = s.trace.countP issuesTransaction + 1 := by
  cases ha : writeAnswerOf s.env with
  | ok => rw [drawRun_ok ha, countP_finishDraw, countP_issueWrite]
  | fail => rw [drawRun_fail ha, countP_finishDraw, countP_issueWrite]
  | never => rw [drawRun_never ha, countP_issueWrite]

theorem countP_issueXfer_armButton (s : State) :
    (issueXfer (armButton s)).trace.countP issuesTransaction = s.trace.countP issuesTransaction + 1 := by
  simp [issuesTransaction]

theorem countP_xferAnswered (received : Option Byte) (s : State) :
    (xferAnswered received s).trace.countP issuesTransaction = s.trace.countP issuesTransaction := by
  simp

theorem countP_rdbtnRun (s : State) :
    (rdbtnRun s).trace.countP issuesTransaction = s.trace.countP issuesTransaction + 1 := by
  cases ha : xferAnswerOf s.env with
  | ok x => rw [rdbtnRun_ok ha, countP_xferAnswered, countP_issueXfer_armButton]
  | fail => rw [rdbtnRun_fail ha, countP_xferAnswered, countP_issueXfer_armButton]
  | never => rw [rdbtnRun_never ha, countP_issueXfer_armButton]

/-- SETL, CLR and PROX write FB, or the fault set for a centre with no LUT entry, and respond. -/
theorem runOf_eq_respond {i : Instr} (hdraw : i ≠ .draw) (hrdbtn : i ≠ .rdbtn) (s : State) :
    ∃ r fb faults, runOf i s = respond r { s with fb := fb, faults := faults } := by
  cases i with
  | setl l => exact ⟨okResponse, setLight s.fb l, s.faults, rfl⟩
  | clr => exact ⟨okResponse, zeroFb, s.faults, rfl⟩
  | draw => exact absurd rfl hdraw
  | rdbtn => exact absurd rfl hrdbtn
  | prox c =>
    by_cases hc : c.val < 61
    · rw [runOf_prox_lt hc]
      exact ⟨okResponse, burst s.lut ⟨c.val, hc⟩ s.fb, s.faults, rfl⟩
    · rw [runOf_prox_ge hc]
      exact ⟨_, s.fb, _, rfl⟩

/-- Settles O15: each bus command's run adds one issue to the record, and the other runs touch FB and the fault set. -/
theorem oneTransactionPerBusCommand : Obligations.OneTransactionPerBusCommand := by
  intro i s t hexec
  obtain ⟨-, rfl⟩ := exec_next.mp hexec
  constructor
  · rintro (rfl | rfl)
    · exact countP_drawRun s
    · exact countP_rdbtnRun s
  · intro hdraw hrdbtn
    obtain ⟨r, fb, faults, hrun⟩ := runOf_eq_respond hdraw hrdbtn s
    rw [hrun]
    exact ⟨rfl, rfl, rfl, rfl, rfl⟩

/-! ### LED_OUT and the events of DRAW -/

theorem deliver_ledOut (s : State) : (deliver s).ledOut = s.ledOut := by
  obtain ⟨ph, sa, fp, cl, hdeliver⟩ := deliver_eq s
  rw [hdeliver]

theorem clientReceive_ledOut (r : CmdWord) (s : State) : (clientReceive r s).ledOut = s.ledOut := by
  obtain ⟨sa, fp, cl, hreceive⟩ := clientReceive_eq r s
  rw [hreceive]

theorem fcInternal_ledOut (s : State) : (fcInternal s).ledOut = s.ledOut := by
  obtain ⟨sc, fp, tr, hinternal⟩ := fcInternal_eq s
  rw [hinternal]

theorem beginInstr_ledOut (i : Instr) (s : State) : (beginInstr i s).ledOut = s.ledOut := by
  cases i with
  | setl | clr | draw | rdbtn => rfl
  | prox c =>
    cases hc : lutIndex c with
    | some k => simp only [beginInstr, hc]; rfl
    | none => simp only [beginInstr, hc]; rfl

/-- No word commits in its first event. -/
theorem beginWord_ledOut (w : CmdWord) (s : State) : (beginWord w s).ledOut = s.ledOut := by
  unfold beginWord
  cases decode w with
  | legal i => exact beginInstr_ledOut i s
  | illegal c => rfl

theorem beginClient_ledOut (s : State) : (beginClient s).ledOut = s.ledOut := by
  unfold beginClient
  cases s.client with
  | frameController =>
    cases fcWord s with
    | none => exact fcInternal_ledOut s
    | some w => exact (deliver_ledOut _).trans (beginWord_ledOut w s)
  | harness offers responses =>
    cases offers with
    | nil => rfl
    | cons w ws => exact (deliver_ledOut _).trans (beginWord_ledOut w _)

/-- Inside a command only the end of DRAW's pulse commits (R112). -/
theorem advance_ledOut {s t : State} (hbusy : s.phase ≠ .idle) (hpulse : ∀ snap w, s.phase ≠ .wLedlo snap w)
    (hadvance : advance s = .next t) : t.ledOut = s.ledOut := by
  obtain ⟨snap, -, -, rfl⟩ | ⟨snap, -, -, rfl⟩ | ⟨snap, w, hphase, -⟩ | ⟨-, rfl⟩ | ⟨x, -, -, rfl⟩ | ⟨-, -, rfl⟩ |
    ⟨c, k, -, rfl⟩ | ⟨r, -, rfl⟩ := advance_cases hadvance hbusy
  · rfl
  · rfl
  · exact absurd hphase (hpulse snap w)
  · rfl
  · rfl
  · rfl
  · rfl
  · exact clientReceive_ledOut r _

theorem tick_ledOut {s t : State} (hreset : s.resetPin = false) (hpulse : ∀ snap w, s.phase ≠ .wLedlo snap w)
    (htick : tick s = .next t) : t.ledOut = s.ledOut := by
  by_cases hidle : s.phase = .idle
  · rw [tick_idle hreset hidle] at htick
    cases htick
    exact beginClient_ledOut s
  · rw [tick_busy hreset hidle] at htick
    exact advance_ledOut hidle hpulse htick

/-- The event that ends `W_WRITE`: the answer sets the flag of `W_LEDLO`. -/
theorem tick_wWrite {s t : State} {snap : Fb} (hreset : s.resetPin = false) (hphase : s.phase = .wWrite snap)
    (htick : tick s = .next t) :
    (writeAnswerOf s.env = .ok ∧ t = writeAnswered snap true s) ∨
      (writeAnswerOf s.env = .fail ∧ t = writeAnswered snap false s) := by
  have hbusy : s.phase ≠ .idle := by simp [hphase]
  rw [tick_busy hreset hbusy] at htick
  simpa [hphase] using advance_cases htick hbusy

/-- The event that ends `W_LEDLO`: the rising edge of DRAW's pulse. -/
theorem tick_wLedlo {s t : State} {snap : Fb} {written : Bool} (hreset : s.resetPin = false)
    (hphase : s.phase = .wLedlo snap written) (htick : tick s = .next t) : t = ledReleased snap written s := by
  have hadvance : advance s = .next (ledReleased snap written s) := by simp only [advance, hphase]
  rw [tick_busy hreset (by simp [hphase]), hadvance] at htick
  exact (Host.Outcome.next.inj htick).symm

/-- Settles O17: outside `W_LEDLO` every event keeps LED_OUT, and the event that ends it is the rising edge, which commits. -/
theorem ledOutChangesOnlyAtThePulse : Obligations.LedOutChangesOnlyAtThePulse := by
  intro s t hreset htick
  refine ⟨?onlyAtThePulse, ?flag, ?commit, ?edge⟩
  case onlyAtThePulse =>
    contrapose!
    exact fun hpulse => tick_ledOut hreset hpulse htick
  case flag =>
    intro snap hphase
    obtain ⟨hok, rfl⟩ | ⟨hfail, rfl⟩ := tick_wWrite hreset hphase htick
    · exact .inl ⟨hok, rfl⟩
    · exact .inr ⟨hfail, rfl⟩
  case commit =>
    intro snap hphase
    obtain rfl := tick_wLedlo hreset hphase htick
    rfl
  case edge =>
    intro snap written hphase hlow
    obtain rfl := tick_wLedlo hreset hphase htick
    rw [ledReleased_trace, hlow, ledEdge_low_high]

end Sys2Proof.Machine
end

section
/-! PROOFS. The proximity engine, PROX: the distance it measures (R134, R135), the set it lights (R138, R139), and what the
LUT can and cannot influence (R133). -/

namespace Sys2Proof

/-- The word of PROX is 0x5000 with the centre in the IDX field (R138). -/
theorem encode_prox_eq_or (c : LightIdx) : encode (.prox c) = 0x5000#16 ||| BitVec.ofNat 16 c.val := by
  revert c
  decide

/-- OP 0x5 is PROX's alone (R84). -/
theorem opField_of_decode_eq_prox {w : CmdWord} {c : LightIdx} (hd : decode w = .legal (.prox c)) : opField w = 0x5 := by
  rw [← encode_eq_of_decode_eq_legal hd]
  exact opField_commandWord 0x5 c

end Sys2Proof

namespace Sys2Proof.Machine

/-! ### The distance -/

/-- The number that an int16 component stands for, in units of 10^-4 (R58, R130). -/
noncomputable def componentValue (n : BitVec 16) : ℝ := (n.toInt : ℝ) / 10000

/-- The sum of the squared differences of the vectors that two entries stand for. -/
noncomputable def vectorDistSq (lut : Lut) (a b : LutIdx) : ℝ :=
  (componentValue lut[a].x - componentValue lut[b].x) ^ 2 + (componentValue lut[a].y - componentValue lut[b].y) ^ 2
    + (componentValue lut[a].z - componentValue lut[b].z) ^ 2

theorem vectorDistSq_nonneg (lut : Lut) (a b : LutIdx) : 0 ≤ vectorDistSq lut a b := by
  unfold vectorDistSq
  positivity

/-- `d2` measures the squared distance in units of 10^-8, exactly (R134). -/
theorem d2_div_eq_vectorDistSq (lut : Lut) (a b : LutIdx) : (d2 lut a b : ℝ) / 10 ^ 8 = vectorDistSq lut a b := by
  have hd2 : (d2 lut a b : ℝ) =
      ((lut[a].x.toInt : ℝ) - lut[b].x.toInt) ^ 2 + ((lut[a].y.toInt : ℝ) - lut[b].y.toInt) ^ 2
        + ((lut[a].z.toInt : ℝ) - lut[b].z.toInt) ^ 2 := by
    exact_mod_cast d2_cast lut a b
  rw [hd2, vectorDistSq]
  simp only [componentValue]
  ring

/-- The integer compare is the compare of the distance with 0.4 (R135). -/
theorem d2_lt_radiusSq_iff (lut : Lut) (a b : LutIdx) :
    d2 lut a b < 16000000 ↔ Real.sqrt (vectorDistSq lut a b) < 0.4 := by
  calc d2 lut a b < 16000000 ↔ (d2 lut a b : ℝ) < 16000000 := Nat.cast_lt_ofNat.symm
    _ ↔ vectorDistSq lut a b < 0.4 ^ 2 := by
        rw [← d2_div_eq_vectorDistSq, div_lt_iff₀ (by norm_num)]
        norm_num
    _ ↔ Real.sqrt (vectorDistSq lut a b) < 0.4 := (Real.sqrt_lt' (by norm_num)).symm

/-- Settles O19: both clauses on the real distance are those on `vectorDistSq`, under the square root. -/
theorem nearIsEuclideanDistanceBelowRadius : Obligations.NearIsEuclideanDistanceBelowRadius := by
  intro lut a b
  have hsq : (d2 lut a b : ℝ) / 10 ^ 8 = Real.sqrt (vectorDistSq lut a b) ^ 2 := by
    rw [Real.sq_sqrt (vectorDistSq_nonneg lut a b), d2_div_eq_vectorDistSq]
  exact ⟨hsq, d2_cast lut a b, near_iff, near_iff.trans (d2_lt_radiusSq_iff lut a b)⟩

/-! ### PROX in an accepted command -/

@[simp] theorem d2_self (lut : Lut) (c : LutIdx) : d2 lut c c = 0 := by
  simp [d2]

@[simp] theorem proxRun_fb (c : LutIdx) (s : State) : (proxRun c s).fb = burst s.lut c s.fb := rfl

theorem endCommand_proxRun {s : State} (hidle : s.phase = .idle) (c : LutIdx) :
    endCommand (proxRun c s) = { s with fb := burst s.lut c s.fb } :=
  endCommand_respond (s := { s with fb := burst s.lut c s.fb }) hidle okResponse

theorem endCommand_illegalCommand {s : State} (hidle : s.phase = .idle) (w : CmdWord) (cause : Cause) :
    endCommand (illegalCommand w cause s) = recordFault ⟨w, cause⟩ s :=
  endCommand_respond (s := recordFault ⟨w, cause⟩ s) hidle (errorResponse (causeCode cause))

theorem exec_prox {s : State} (hidle : s.phase = .idle) {c : LightIdx} (hc : c.val < 61) :
    exec (.prox c) s = .next (proxRun ⟨c.val, hc⟩ s) :=
  exec_next.mpr ⟨hidle, by rw [runOf_prox_lt hc]⟩

/-- Settles O22: below 61 the burst writes FB only, light by light; above, the word is illegal and only the fault is recorded. -/
theorem proxLightsTheNearSet : Obligations.ProxLightsTheNearSet := by
  intro c s hidle
  rw [← encode_prox_eq_or, decode_encode]
  refine ⟨fun hc => ?entry, fun hc => ?noEntry⟩
  case entry =>
    refine ⟨if_pos (decide_eq_true hc), proxRun ⟨c.val, hc⟩ s, exec_prox hidle hc, fun j => ?lights, rfl, ?frame⟩
    case lights => simp only [proxRun_fb, lightBit_burst, near_iff]
    case frame => rw [endCommand_proxRun hidle]
  case noEntry =>
    have hillegal : (if (Instr.prox c).wf = true then Decoded.legal (.prox c) else .illegal .noLutEntry) =
        .illegal .noLutEntry := if_neg (by simpa [Instr.wf] using hc)
    refine ⟨hillegal, illegalCommand (encode (.prox c)) .noLutEntry s, ?_, rfl, ?frame⟩
    · rw [executeWord_illegal ((decode_encode (.prox c)).trans hillegal), accept_idle hidle]
    case frame => rw [endCommand_illegalCommand hidle]; rfl

/-- Settles O23: the centre is at distance 0 of itself, so the burst lights it. -/
theorem burstContainsItsCentre : Obligations.BurstContainsItsCentre := by
  intro c s hidle
  have hnear : near s.lut c c = true := near_iff.mpr (by simp)
  exact ⟨d2_self s.lut c, proxRun c s, exec_prox hidle c.isLt, (lightBit_burst s.lut c s.fb _).mpr (.inr ⟨c.isLt, hnear⟩)⟩

/-! ### Two runs side by side -/

theorem onNext_id (o : Outcome) : onNext id o = o := by
  cases o <;> rfl

theorem onNext_accept_congr {f g run : State → State} {s s' : State} (hphase : s.phase = s'.phase)
    (hrun : f (run s) = g (run s')) : onNext f (accept s run) = onNext g (accept s' run) := by
  by_cases hidle : s.phase = .idle
  · rw [accept_idle hidle, accept_idle (hphase ▸ hidle)]
    exact congrArg Host.Outcome.next hrun
  · rw [accept_busy hidle, accept_busy (hphase ▸ hidle)]
    rfl

/-- Two views of one word's outcomes agree if they agree on each run that the word can decode to. -/
theorem onNext_executeWord_congr {f g : State → State} {w : CmdWord} {s s' : State} (hphase : s.phase = s'.phase)
    (hlegal : ∀ i, decode w = .legal i → f (runOf i s) = g (runOf i s'))
    (hillegal : ∀ c, f (illegalCommand w c s) = g (illegalCommand w c s')) :
    onNext f (executeWord w s) = onNext g (executeWord w s') := by
  cases hd : decode w with
  | legal i =>
    simp only [executeWord_legal hd, exec_eq_accept]
    exact onNext_accept_congr hphase (hlegal i hd)
  | illegal c =>
    simp only [executeWord_illegal hd]
    exact onNext_accept_congr hphase (hillegal c)

/-! ### What a run makes of the table -/

/-- The state with another table in the ROM. -/
def withLut (m : Lut) (s : State) : State := { s with lut := m }

theorem drawRun_withLut (m : Lut) (s : State) : drawRun (withLut m s) = withLut m (drawRun s) := by
  have henv : (withLut m s).env = s.env := rfl
  cases ha : writeAnswerOf s.env with
  | ok => rw [drawRun_ok ha, drawRun_ok (henv ▸ ha)]; rfl
  | fail => rw [drawRun_fail ha, drawRun_fail (henv ▸ ha)]; rfl
  | never => rw [drawRun_never ha, drawRun_never (henv ▸ ha)]; rfl

theorem rdbtnRun_withLut (m : Lut) (s : State) : rdbtnRun (withLut m s) = withLut m (rdbtnRun s) := by
  have henv : (withLut m s).env = s.env := rfl
  cases ha : xferAnswerOf s.env with
  | ok x => rw [rdbtnRun_ok ha, rdbtnRun_ok (henv ▸ ha)]; rfl
  | fail => rw [rdbtnRun_fail ha, rdbtnRun_fail (henv ▸ ha)]; rfl
  | never => rw [rdbtnRun_never ha, rdbtnRun_never (henv ▸ ha)]; rfl

/-- No run but PROX's reads the table. -/
theorem runOf_withLut {i : Instr} (hi : ∀ c, i ≠ .prox c) (m : Lut) (s : State) :
    runOf i (withLut m s) = withLut m (runOf i s) := by
  cases i with
  | setl l => rfl
  | clr => rfl
  | draw => exact drawRun_withLut m s
  | rdbtn => exact rdbtnRun_withLut m s
  | prox c => exact absurd rfl (hi c)

/-- A run of this form, PROX's: the table may decide what is written to FB, and the response is fixed. -/
theorem hideFb_respond_withLut (r : CmdWord) (newFb : State → Fb) (m : Lut) (s : State) :
    hideFb (respond r { withLut m s with fb := newFb (withLut m s) }) =
      hideFb (withLut m (respond r { s with fb := newFb s })) := rfl

/-- PROX reads the table for FB only. -/
theorem hideFb_runOf_withLut (i : Instr) (m : Lut) (s : State) :
    hideFb (runOf i (withLut m s)) = hideFb (withLut m (runOf i s)) := by
  by_cases hi : ∃ c, i = .prox c
  · obtain ⟨c, rfl⟩ := hi
    by_cases hc : c.val < 61
    · rw [runOf_prox_lt hc]
      exact hideFb_respond_withLut okResponse (fun s => burst s.lut ⟨c.val, hc⟩ s.fb) m s
    · rw [runOf_prox_ge hc]; rfl
  · rw [runOf_withLut (not_exists.mp hi)]

/-- A run that commutes with replacing the table keeps the table: replace it by itself. -/
theorem runOf_lut (i : Instr) (s : State) : (runOf i s).lut = s.lut := by
  have hlut := congrArg State.lut (hideFb_runOf_withLut i s.lut s)
  exact hlut

/-! ### No step and no event writes the table -/

theorem executeWord_lut {w : CmdWord} {s t : State} (hnext : executeWord w s = .next t) : t.lut = s.lut := by
  cases hd : decode w with
  | legal i =>
    rw [executeWord_legal_next hd hnext]
    exact runOf_lut i s
  | illegal c =>
    rw [executeWord_illegal hd] at hnext
    obtain ⟨-, rfl⟩ := accept_next.mp hnext
    rfl

theorem clientReceive_lut (r : CmdWord) (s : State) : (clientReceive r s).lut = s.lut := by
  obtain ⟨sa, fp, cl, hreceive⟩ := clientReceive_eq r s
  rw [hreceive]

theorem deliver_lut (s : State) : (deliver s).lut = s.lut := by
  obtain ⟨ph, sa, fp, cl, hdeliver⟩ := deliver_eq s
  rw [hdeliver]

theorem fcInternal_lut (s : State) : (fcInternal s).lut = s.lut := by
  obtain ⟨sc, fp, tr, hinternal⟩ := fcInternal_eq s
  rw [hinternal]

theorem commitLed_lut (snap : Fb) (written : Bool) (s : State) : (commitLed snap written s).lut = s.lut := by
  cases written <;> rfl

theorem beginWord_lut (w : CmdWord) (s : State) : (beginWord w s).lut = s.lut := by
  unfold beginWord
  cases decode w with
  | illegal c => rfl
  | legal i =>
    cases i with
    | setl | clr | draw | rdbtn => rfl
    | prox c =>
      cases hc : lutIndex c with
      | none => simp only [beginInstr, hc]; rfl
      | some k => simp only [beginInstr, hc]; rfl

theorem beginClient_lut (s : State) : (beginClient s).lut = s.lut := by
  unfold beginClient
  cases s.client with
  | frameController =>
    cases fcWord s with
    | none => exact fcInternal_lut s
    | some w => exact (deliver_lut _).trans (beginWord_lut w s)
  | harness offers responses =>
    cases offers with
    | nil => rfl
    | cons w ws => exact (deliver_lut _).trans (beginWord_lut w _)

theorem onNext_deliver_executeWord_lut {w : CmdWord} {s t : State}
    (hnext : onNext deliver (executeWord w s) = .next t) : t.lut = s.lut := by
  obtain ⟨u, hu, rfl⟩ := onNext_next.mp hnext
  exact (deliver_lut u).trans (executeWord_lut hu)

theorem fcStep_lut {s t : State} (hnext : fcStep s = .next t) : t.lut = s.lut := by
  unfold fcStep at hnext
  split at hnext
  case h_1 w hw => exact onNext_deliver_executeWord_lut hnext
  case h_2 hw =>
    cases hnext
    exact fcInternal_lut s

theorem clientStep_lut {s t : State} (hnext : clientStep s = .next t) : t.lut = s.lut := by
  unfold clientStep at hnext
  split at hnext
  case h_1 hclient => exact fcStep_lut hnext
  case h_2 responses hclient =>
    cases hnext
    rfl
  case h_3 w ws responses hclient =>
    exact onNext_deliver_executeWord_lut (s := { s with client := .harness ws responses }) hnext

theorem advance_lut {s t : State} (hbusy : s.phase ≠ .idle) (hadvance : advance s = .next t) : t.lut = s.lut := by
  obtain ⟨snap, -, -, rfl⟩ | ⟨snap, -, -, rfl⟩ | ⟨snap, w, -, rfl⟩ | ⟨-, rfl⟩ | ⟨x, -, -, rfl⟩ | ⟨-, -, rfl⟩ |
    ⟨c, k, -, rfl⟩ | ⟨r, -, rfl⟩ := advance_cases hadvance hbusy
  · rfl
  · rfl
  · exact commitLed_lut snap w _
  · rfl
  · rfl
  · rfl
  · rfl
  · exact clientReceive_lut r _

theorem step_lut {s t : State} (hstep : step s = .next t) : t.lut = s.lut := by
  obtain ⟨-, rfl⟩ | ⟨-, -, hclient⟩ | ⟨-, hbusy, hadvance⟩ := step_cases hstep
  · exact applyReset_lut s
  · exact clientStep_lut hclient
  · exact advance_lut hbusy hadvance

theorem tick_lut {s t : State} (htick : tick s = .next t) : t.lut = s.lut := by
  obtain ⟨-, rfl⟩ | ⟨-, -, rfl⟩ | ⟨-, hbusy, hadvance⟩ := tick_cases htick
  · exact applyReset_lut s
  · exact beginClient_lut s
  · exact advance_lut hbusy hadvance

/-- Settles O26: no step or event writes the table, no run but PROX's reads it, and PROX's reads it for FB only. -/
theorem lutIsReadOnlyAndOnlyProxReadsIt : Obligations.LutIsReadOnlyAndOnlyProxReadsIt := by
  refine ⟨fun s t => step_lut, fun s t => tick_lut, fun w s l m hop => ?otherWords, fun w s l m => ?anyWord⟩
  case otherWords =>
    have hrun (i : Instr) (hd : decode w = .legal i) :
        withLut m (runOf i (withLut l s)) = id (runOf i (withLut m s)) := by
      have hi (c : LightIdx) : i ≠ .prox c := by
        rintro rfl
        exact hop (opField_of_decode_eq_prox hd)
      exact (runOf_withLut hi m (withLut l s)).symm
    calc onNext (withLut m) (executeWord w (withLut l s))
        = onNext id (executeWord w (withLut m s)) := onNext_executeWord_congr rfl hrun fun _ => rfl
      _ = executeWord w (withLut m s) := onNext_id _
  case anyWord =>
    have hrun (i : Instr) (_ : decode w = .legal i) :
        hideFb (withLut m (runOf i (withLut l s))) = hideFb (runOf i (withLut m s)) :=
      (hideFb_runOf_withLut i m (withLut l s)).symm
    exact onNext_executeWord_congr (s := withLut l s) (s' := withLut m s) rfl hrun fun _ => rfl

end Sys2Proof.Machine
end

section
/-! PROOFS. The Frame Controller's phases (R150 to R156): what a step is in each of them, as one equation, and the state it
leaves. -/

namespace Sys2Proof.Machine

/-! ### The word of each phase, and what the FC makes of the response -/

theorem fcWord_sample {s : State} (hphase : s.fcPhase = .sample) : fcWord s = some (encode .rdbtn) := by
  simp only [fcWord, hphase]
  rfl

theorem fcWord_fill {s : State} (hphase : s.fcPhase = .fill) : fcWord s = some (fillWord s.sample s.scan) := by
  simp only [fcWord, hphase]

theorem fcWord_flush {s : State} (hphase : s.fcPhase = .flush) : fcWord s = some (encode .draw) := by
  simp only [fcWord, hphase]
  rfl

theorem fcWord_clear {s : State} (hphase : s.fcPhase = .clear) : fcWord s = some (encode .clr) := by
  simp only [fcWord, hphase]
  rfl

theorem fcWord_advance {s : State} (hphase : s.fcPhase = .advance) : fcWord s = none := by
  simp only [fcWord, hphase]

theorem fcReceive_sample {s : State} (hphase : s.fcPhase = .sample) (r : CmdWord) :
    fcReceive r s = { s with sample := dataField r, fcPhase := .fill } := by
  simp only [fcReceive, hphase]

theorem fcReceive_fill {s : State} (hphase : s.fcPhase = .fill) (r : CmdWord) :
    fcReceive r s = { s with fcPhase := .flush } := by
  simp only [fcReceive, hphase]

theorem fcReceive_flush {s : State} (hphase : s.fcPhase = .flush) (r : CmdWord) :
    fcReceive r s = { s with fcPhase := .wait } := by
  simp only [fcReceive, hphase]

theorem fcReceive_clear {s : State} (hphase : s.fcPhase = .clear) (r : CmdWord) :
    fcReceive r s = { s with fcPhase := .advance } := by
  simp only [fcReceive, hphase]

theorem fcInternal_advance {s : State} (hphase : s.fcPhase = .advance) :
    fcInternal s = { s with scan := scanNext s.scan, fcPhase := .sample } := by
  simp only [fcInternal, hphase]

theorem deliver_respond {s : State} (hclient : s.client = .frameController) (hidle : s.phase = .idle) (r : CmdWord) :
    deliver (respond r s) = fcReceive r s := by
  have hback : { respond r s with phase := .idle } = s := by rw [← hidle]; rfl
  rw [deliver_done (respond_phase s r), hback, clientReceive, hclient]

/-! ### The command of P_FILL -/

/-- The command FILL issues (R152). -/
def fillInstr (sample : Byte) (scan : LutIdx) : Instr :=
  if burstSelected sample then .prox (lightOfEntry scan) else .setl (lightOfEntry scan)

/-- FB after FILL: the burst around SCAN, or the one light SCAN, over what FB held (R152). -/
def fillFb (lut : Lut) (sample : Byte) (scan : LutIdx) (fb : Fb) : Fb :=
  if burstSelected sample then burst lut scan fb else setLight fb (lightOfEntry scan)

theorem fillInstr_wf (sample : Byte) (scan : LutIdx) : (fillInstr sample scan).wf = true := by
  unfold fillInstr
  split
  · exact decide_eq_true scan.isLt
  · rfl

theorem runOf_fillInstr (sample : Byte) (scan : LutIdx) (s : State) :
    runOf (fillInstr sample scan) s = respond okResponse { s with fb := fillFb s.lut sample scan s.fb } := by
  unfold fillInstr fillFb
  split
  · rw [runOf_prox_lt scan.isLt]; rfl
  · rfl

/-- A light after FILL, by bit 0 of the sample alone (R152). -/
theorem lightBit_fillFb (lut : Lut) (sample : Byte) (scan : LutIdx) (fb : Fb) (j : LightIdx) :
    lightBit (fillFb lut sample scan fb) j = true ↔ lightBit fb j = true ∨
      (burstSelected sample = false ∧ j.val = scan.val) ∨
      (burstSelected sample = true ∧ ∃ h : j.val < 61, d2 lut scan ⟨j.val, h⟩ < 16000000) := by
  cases hburst : burstSelected sample with
  | true => simp [fillFb, hburst, lightBit_burst, near_iff]
  | false =>
    have hlight : lightOfEntry scan = j ↔ j.val = scan.val := by rw [Fin.ext_iff, eq_comm]; rfl
    simp [fillFb, hburst, lightBit_setLight, hlight, or_comm]

/-! ### A step with the FC as client and the CU in `IDLE` -/

section
variable {s : State} (hclient : s.client = .frameController) (hreset : s.resetPin = false) (hidle : s.phase = .idle)
include hclient hreset hidle

/-- A phase that issues a command performs it and delivers the response, if one has come. -/
theorem step_command {i : Instr} (hword : fcWord s = some (encode i)) (hwf : i.wf = true) :
    step s = .next (deliver (runOf i s)) := by
  have hlegal : decode (encode i) = .legal i := decode_eq_legal_iff.mpr ⟨hwf, rfl⟩
  have hexec : exec i s = .next (runOf i s) := exec_next.mpr ⟨hidle, rfl⟩
  rw [step_idle hreset hidle, clientStep_fc hclient, fcStep, hword]
  simp only [executeWord_legal hlegal, hexec, onNext]

/-- An answered command: the FC takes the response in the state the command left. -/
theorem step_answered {i : Instr} {r : CmdWord} {u : State} (hword : fcWord s = some (encode i)) (hwf : i.wf = true)
    (hrun : runOf i s = respond r u) (hclient' : u.client = .frameController) (hidle' : u.phase = .idle) :
    step s = .next (fcReceive r u) := by
  rw [step_command hclient hreset hidle hword hwf, hrun, deliver_respond hclient' hidle']

theorem step_internal (hword : fcWord s = none) : step s = .next (fcInternal s) := by
  rw [step_idle hreset hidle, clientStep_fc hclient, fcStep, hword]

theorem step_sample_answered (hphase : s.fcPhase = .sample) (hbtn : s.btnLat = .high) {received : Option Byte}
    (hrun : rdbtnRun s = xferAnswered received (issueXfer (armButton s))) :
    step s = .next { s with
      sample := buttonByte received
      fcPhase := .fill
      trace := s.trace ++ [.btnFall, .xfer rdbtnTx, xferEvent received, .btnRise]
      env := afterXfer s.env } := by
  have hrespond := hrun.trans (xferAnswered_eq_respond hbtn received)
  rw [step_answered hclient hreset hidle (fcWord_sample hphase) rfl hrespond hclient hidle, fcReceive_sample,
    dataField_dataResponse]
  exact hphase

theorem step_sample_never (hphase : s.fcPhase = .sample) (hbtn : s.btnLat = .high) (ha : xferAnswerOf s.env = .never) :
    step s = .next { s with
      phase := .rXfer
      btnLat := .low
      trace := s.trace ++ [.btnFall, .xfer rdbtnTx] } := by
  rw [step_command hclient hreset hidle (fcWord_sample hphase) rfl, runOf, rdbtnRun_never ha,
    issueXfer_armButton_eq hbtn, deliver_none]
  rfl

theorem step_fill (hphase : s.fcPhase = .fill) :
    step s = .next { s with fb := fillFb s.lut s.sample s.scan s.fb, fcPhase := .flush } := by
  have hword : fcWord s = some (encode (fillInstr s.sample s.scan)) := by
    rw [fcWord_fill hphase, fillWord_eq, fillInstr]
  rw [step_answered hclient hreset hidle hword (fillInstr_wf _ _) (runOf_fillInstr _ _ s) hclient hidle, fcReceive_fill]
  exact hphase

theorem step_flush_answered (hphase : s.fcPhase = .flush) (hled : s.ledLat = .high) {a : WriteAnswer}
    (ha : writeAnswerOf s.env = a) (hanswered : a ≠ .never) :
    step s = .next { s with
      fcPhase := .wait
      trace := s.trace ++
        [.write (flushBytes s.fb), if a = .ok then .writeOk else .writeFail, .ledFall, .ledRise]
      ledOut := if a = .ok then s.fb else Config.ledOutFree (afterWrite s.env).draws
      env := if a = .ok then afterWrite s.env else afterDraw (afterWrite s.env) } := by
  have hrespond := drawRun_answered hled ha hanswered
  rw [step_answered hclient hreset hidle (fcWord_flush hphase) rfl hrespond hclient hidle, fcReceive_flush]
  exact hphase

theorem step_flush_never (hphase : s.fcPhase = .flush) (ha : writeAnswerOf s.env = .never) :
    step s = .next (issueWrite s) := by
  rw [step_command hclient hreset hidle (fcWord_flush hphase) rfl, runOf, drawRun_never ha, deliver_none]
  rfl

theorem step_clear (hphase : s.fcPhase = .clear) : step s = .next { s with fb := zeroFb, fcPhase := .advance } := by
  have hrespond : runOf .clr s = respond okResponse { s with fb := zeroFb } := rfl
  rw [step_answered hclient hreset hidle (fcWord_clear hphase) rfl hrespond hclient hidle, fcReceive_clear]
  exact hphase

theorem step_advance (hphase : s.fcPhase = .advance) :
    step s = .next { s with scan := scanNext s.scan, fcPhase := .sample } := by
  rw [step_internal hclient hreset hidle (fcWord_advance hphase), fcInternal_advance hphase]

end

/-! ### The statements -/

/-- Settles O42: the step by the transfer's answer; the received byte comes back through the response's DATA. -/
theorem samplePhaseReadsTheButton : Obligations.SamplePhaseReadsTheButton := by
  intro s hclient hreset hidle hphase ⟨_, hbtn⟩
  refine ⟨fcWord_sample hphase, ?_⟩
  have hanswered {received : Option Byte} :=
    step_sample_answered (received := received) hclient hreset hidle hphase hbtn
  cases ha : xferAnswerOf s.env with
  | ok x => exact ⟨_, hanswered (rdbtnRun_ok ha), by simp [buttonByte]⟩
  | fail => exact ⟨_, hanswered (rdbtnRun_fail ha), by simp [buttonByte]⟩
  | never => exact ⟨_, step_sample_never hclient hreset hidle hphase hbtn ha, by simp [hung, ha, hphase]⟩

/-- Settles O43: the step writes FB by `fillFb` and moves PHASE. -/
theorem fillPhaseSelectsTheBranch : Obligations.FillPhaseSelectsTheBranch := by
  intro s hclient hreset hidle hphase
  exact ⟨fcWord_fill hphase, _, step_fill hclient hreset hidle hphase, rfl,
    lightBit_fillFb s.lut s.sample s.scan s.fb, rfl⟩

/-- Settles O46: the step writes FB with `zeroFb` and moves PHASE. -/
theorem clearPhaseClearsTheFramebuffer : Obligations.ClearPhaseClearsTheFramebuffer := by
  intro s hclient hreset hidle hphase
  exact ⟨fcWord_clear hphase, _, step_clear hclient hreset hidle hphase, rfl, zeroFb_getElem, rfl, rfl⟩

/-- Settles O47: the step moves SCAN by `scanNext` and PHASE. -/
theorem advancePhaseStepsTheScanIndex : Obligations.AdvancePhaseStepsTheScanIndex := by
  intro s hclient hreset hidle hphase
  exact ⟨fcWord_advance hphase, _, step_advance hclient hreset hidle hphase, rfl, rfl, rfl⟩

/-- Settles O44: the step by the write's answer; the write is the first entry after the old record. -/
theorem flushPhaseCommitsTheFrame : Obligations.FlushPhaseCommitsTheFrame := by
  intro s hclient hreset hidle hphase ⟨hled, _⟩
  refine ⟨fcWord_flush hphase, ?_⟩
  by_cases ha : writeAnswerOf s.env = .never
  · exact ⟨_, step_flush_never hclient hreset hidle hphase ha, by simp [issueWrite_eq, hung, ha, hphase]⟩
  · refine ⟨_, step_flush_answered hclient hreset hidle hphase hled rfl ha, ?_⟩
    simp +contextual [ha, hidle]

end Sys2Proof.Machine
end

section
/-! PROOFS. The one error, `IllegalCommand` (R170 to R175): which word raises it with which cause, and what taking it
changes. -/

namespace Sys2Proof

/-! ### The cause of an illegal word -/

theorem exists_eq_opCode_iff {o : BitVec 4} : (∃ op, o = opCode op) ↔ o ≠ 0x0 ∧ o < 0x6#4 := by
  calc (∃ op, o = opCode op) ↔ opOf o ≠ none := by simp only [← opOf_eq_some_iff, Option.ne_none_iff_exists']
    _ ↔ o ≠ 0x0 ∧ o < 0x6#4 := by rw [ne_eq, opOf_eq_none_iff, not_or, BitVec.not_le]

/-- The last check of R86: an operand that is given where none is taken, or one without a LUT entry. -/
theorem decodeOperand_eq_illegal_iff {op : Op} {idx : LightIdx} {c : Cause} :
    decodeOperand op idx = .illegal c ↔
      ((opCode op = 0x2 ∨ opCode op = 0x3 ∨ opCode op = 0x4) ∧ idx ≠ 0 ∧ c = .reservedField) ∨
      (opCode op = 0x5 ∧ 61 ≤ idx.val ∧ c = .noLutEntry) := by
  cases op with
  | setl => simp [decodeOperand, opCode]
  | clr | draw | rdbtn => by_cases hidx : idx = 0 <;> simp [decodeOperand, opCode, noOperand, hidx, eq_comm]
  | prox => by_cases hlut : idx.val < 61 <;> simp [decodeOperand, opCode, hlut, ← not_lt, eq_comm]

/-- The three checks of R86 in their order, each with the cause it raises. -/
theorem decode_eq_illegal_iff {w : CmdWord} {c : Cause} :
    decode w = .illegal c ↔
      (opOf (opField w) = none ∧ c = .reservedOp) ∨
      ∃ op, opField w = opCode op ∧
        ((rsvField w ≠ 0 ∧ c = .reservedField) ∨ (rsvField w = 0 ∧ decodeOperand op (idxField w) = .illegal c)) := by
  cases hop : opOf (opField w) with
  | none =>
    have hunnamed (op : Op) : opField w ≠ opCode op := by
      intro hcode
      rw [opOf_eq_some_iff.mpr hcode] at hop
      cases hop
    simp [decode_of_opOf_none hop, hunnamed, eq_comm]
  | some op =>
    have hcode : opField w = opCode op := opOf_eq_some_iff.mp hop
    have honly (op' : Op) : opField w = opCode op' ↔ op = op' := by
      rw [← opOf_eq_some_iff, hop, Option.some.injEq]
    simp only [honly, reduceCtorEq, false_and, false_or, exists_eq_left']
    by_cases hrsv : rsvField w = 0
    · rw [decode_of_rsvField_eq hcode hrsv]
      tauto
    · rw [decode_of_rsvField_ne hcode hrsv, Decoded.illegal.injEq, eq_comm]
      tauto

theorem decode_eq_reservedOp_iff {w : CmdWord} :
    decode w = .illegal .reservedOp ↔ opField w = 0x0 ∨ 0x6#4 ≤ opField w := by
  simp [decode_eq_illegal_iff, decodeOperand_eq_illegal_iff, opOf_eq_none_iff]

theorem decode_eq_reservedField_iff {w : CmdWord} :
    decode w = .illegal .reservedField ↔ opField w ≠ 0x0 ∧ opField w < 0x6#4 ∧
      (rsvField w ≠ 0 ∨ ((opField w = 0x2 ∨ opField w = 0x3 ∨ opField w = 0x4) ∧ idxField w ≠ 0)) := by
  rw [decode_eq_illegal_iff, ← and_assoc, ← exists_eq_opCode_iff]
  simp only [decodeOperand_eq_illegal_iff, reduceCtorEq, and_false, and_true, false_or, or_false]
  constructor
  · rintro ⟨op, hop, hcheck⟩
    rw [← hop] at hcheck
    exact ⟨⟨op, hop⟩, by tauto⟩
  · rintro ⟨⟨op, hop⟩, hcheck⟩
    rw [hop] at hcheck
    exact ⟨op, hop, by tauto⟩

theorem decode_eq_noLutEntry_iff {w : CmdWord} :
    decode w = .illegal .noLutEntry ↔ opField w = 0x5 ∧ rsvField w = 0 ∧ 61 ≤ (idxField w).val := by
  simp only [decode_eq_illegal_iff, decodeOperand_eq_illegal_iff, reduceCtorEq, and_false, and_true, false_or]
  constructor
  · rintro ⟨op, hop, hrsv, hcode, hidx⟩
    exact ⟨hop.trans hcode, hrsv, hidx⟩
  · rintro ⟨hop, hrsv, hidx⟩
    exact ⟨.prox, hop, hrsv, rfl, hidx⟩

end Sys2Proof

namespace Sys2Proof.Machine

/-! ### Taking the error -/

theorem executeWord_illegal_eq_next_iff {w : CmdWord} {c : Cause} {s t : State} (hd : decode w = .illegal c) :
    executeWord w s = .next t ↔ s.phase = .idle ∧ t = illegalCommand w c s := by
  rw [executeWord_illegal hd, accept_next]

theorem rspPort_illegalCommand (w : CmdWord) (c : Cause) (s : State) :
    rspPort (illegalCommand w c s) = some (errorResponse (causeCode c)) := rfl

theorem mem_faults_recordFault_iff {f g : IllegalCommand} {s : State} :
    g ∈ (recordFault f s).faults ↔ g ∈ s.faults ∨ g = f := by
  rw [recordFault_faults]
  by_cases hf : f ∈ s.faults
  · have hknown : g = f → g ∈ s.faults := by
      rintro rfl
      exact hf
    rw [if_pos hf, or_iff_left_of_imp hknown]
  · rw [if_neg hf, List.mem_append, List.mem_singleton]

/-! ### A legal command records no fault -/

theorem finishDraw_faults (snap : Fb) (w : Bool) (s : State) : (finishDraw snap w s).faults = s.faults := by
  cases w <;> rfl

theorem drawRun_faults (s : State) : (drawRun s).faults = s.faults := by
  cases ha : writeAnswerOf s.env with
  | ok => rw [drawRun_ok ha, finishDraw_faults]; rfl
  | fail => rw [drawRun_fail ha, finishDraw_faults]; rfl
  | never => rw [drawRun_never ha]; rfl

theorem rdbtnRun_faults (s : State) : (rdbtnRun s).faults = s.faults := by
  cases ha : xferAnswerOf s.env with
  | ok x => rw [rdbtnRun_ok ha]; rfl
  | fail => rw [rdbtnRun_fail ha]; rfl
  | never => rw [rdbtnRun_never ha]; rfl

theorem runOf_faults {i : Instr} (hwf : i.wf = true) (s : State) : (runOf i s).faults = s.faults := by
  cases i with
  | setl l => rfl
  | clr => rfl
  | draw => exact drawRun_faults s
  | rdbtn => exact rdbtnRun_faults s
  | prox c => rw [runOf_prox_lt (of_decide_eq_true hwf)]; rfl

/-! ### The statements -/

/-- Settles O35: taking the error is one fault recorded under the response, and taking the response leaves the fault alone. -/
theorem illegalWordHasNoEffect : Obligations.IllegalWordHasNoEffect := by
  intro w c s hidle hd
  have hended : endCommand (illegalCommand w c s) = recordFault ⟨w, c⟩ s := endCommand_illegalCommand hidle w c
  refine ⟨illegalCommand w c s, (executeWord_illegal_eq_next_iff hd).mpr ⟨hidle, rfl⟩, rspPort_illegalCommand w c s,
    ?idle, mem_recordFault ⟨w, c⟩ s, faults_subset_recordFault ⟨w, c⟩ s, fun f => mem_faults_recordFault_iff.mp, ?frame⟩
  case idle => rw [hended, recordFault_phase, hidle]
  case frame => rw [hended]; rfl

/-- Settles O36: the decoder's checks one cause at a time, and the response of each cause. -/
theorem causesInPriorityOrder : Obligations.CausesInPriorityOrder := by
  refine ⟨fun w => ⟨decode_eq_reservedOp_iff, decode_eq_reservedField_iff, decode_eq_noLutEntry_iff⟩, ?response,
    ?field, ?op, ?setl⟩
  case response =>
    intro w c s hidle hd
    refine ⟨illegalCommand w c s, (executeWord_illegal_eq_next_iff hd).mpr ⟨hidle, rfl⟩, ?_⟩
    rw [rspPort_illegalCommand]
    cases c <;> rfl
  case field => exact decode_eq_reservedField_iff.mpr (by decide)
  case op => exact decode_eq_reservedOp_iff.mpr (by decide)
  case setl => exact fun i _ => decode_eq_legal_iff.mpr ⟨rfl, encode_setl_eq_or i⟩

/-- Settles O37: a legal run keeps the fault set, and ERR says that the word was illegal (O34). -/
theorem onlyIllegalWordsRaiseTheError : Obligations.OnlyIllegalWordsRaiseTheError := by
  intro w s t hnext
  refine ⟨fun i hd => ⟨?noFault, fun r hr => ?noErr⟩, fun c hd => ?illegal⟩
  case noFault =>
    rw [executeWord_legal_next hd hnext]
    exact runOf_faults (decode_eq_legal_iff.mp hd).1 s
  case noErr =>
    obtain ⟨-, herr, -⟩ := responseWordFormat w r s t hnext hr
    simpa [hd] using herr
  case illegal =>
    obtain ⟨-, rfl⟩ := (executeWord_illegal_eq_next_iff hd).mp hnext
    exact ⟨mem_recordFault ⟨w, c⟩ s, _, rspPort_illegalCommand w c s, errBit_errorResponse _⟩

end Sys2Proof.Machine
end

section
/-! PROOFS. Reset and power-on (R200): the value of each piece of state right after either. -/

namespace Sys2Proof.Machine

theorem reset_fb : State.reset.fb = zeroFb := rfl

theorem reset_fb_getElem (b : Fin 8) : State.reset.fb[b] = 0x00#8 := by
  rw [reset_fb, zeroFb_getElem]

theorem applyReset_fb_getElem (s : State) (b : Fin 8) : (applyReset s).fb[b] = 0x00#8 := by
  rw [applyReset_fb, zeroFb_getElem]

/-- Settles O39: power-on is `State.reset`, and in reset a step and an event are both `applyReset`, which writes every field
of R200's table and keeps the LUT. -/
theorem resetPutsEveryResetValue : Obligations.ResetPutsEveryResetValue := by
  refine ⟨reset_fb_getElem, rfl, rfl, rfl, rfl, rfl, rfl, rfl, fun s hreset => ?afterReset⟩
  case afterReset =>
    exact ⟨applyReset s, step_reset hreset, tick_reset hreset, applyReset_fb_getElem s, applyReset_ledLat s,
      applyReset_btnLat s, applyReset_phase s, applyReset_scan s, applyReset_sample s, applyReset_fcPhase s,
      applyReset_lut s, applyReset_faults s⟩

end Sys2Proof.Machine
end

section
/-! PROOFS. A step is a run of events (R61): each command, event by event, ends where its run ends. -/

namespace Sys2Proof.Machine

/-! ### The events inside a command, one equation each (R28) -/

section
variable {s : State}

theorem tick_wWrite_ok {snap : Fb} (hreset : s.resetPin = false) (hphase : s.phase = .wWrite snap)
    (ha : writeAnswerOf s.env = .ok) : tick s = .next (writeAnswered snap true s) := by
  rw [tick_busy hreset (by simp [hphase])]
  simp [advance, hphase, ha]

theorem tick_wWrite_fail {snap : Fb} (hreset : s.resetPin = false) (hphase : s.phase = .wWrite snap)
    (ha : writeAnswerOf s.env = .fail) : tick s = .next (writeAnswered snap false s) := by
  rw [tick_busy hreset (by simp [hphase])]
  simp [advance, hphase, ha]

theorem tick_wLedlo_eq {snap : Fb} {written : Bool} (hreset : s.resetPin = false) (hphase : s.phase = .wLedlo snap written) :
    tick s = .next (ledReleased snap written s) := by
  rw [tick_busy hreset (by simp [hphase]), advance, hphase]

theorem tick_rBtnlo (hreset : s.resetPin = false) (hphase : s.phase = .rBtnlo) : tick s = .next (issueXfer s) := by
  rw [tick_busy hreset (by simp [hphase]), advance, hphase]

theorem tick_rXfer_ok {x : Byte} (hreset : s.resetPin = false) (hphase : s.phase = .rXfer) (ha : xferAnswerOf s.env = .ok x) :
    tick s = .next (xferAnswered (some x) s) := by
  rw [tick_busy hreset (by simp [hphase])]
  simp [advance, hphase, ha]

theorem tick_rXfer_fail (hreset : s.resetPin = false) (hphase : s.phase = .rXfer) (ha : xferAnswerOf s.env = .fail) :
    tick s = .next (xferAnswered none s) := by
  rw [tick_busy hreset (by simp [hphase])]
  simp [advance, hphase, ha]

theorem tick_pScan {c k : LutIdx} (hreset : s.resetPin = false) (hphase : s.phase = .pScan c k) :
    tick s = .next (scanOne c k s) := by
  rw [tick_busy hreset (by simp [hphase]), advance, hphase]

theorem tick_done {r : CmdWord} (hreset : s.resetPin = false) (hphase : s.phase = .done r) : tick s = .next (deliver s) := by
  rw [tick_busy hreset (by simp [hphase]), advance, hphase]

end

/-! ### Each bus command as a run of events -/

theorem ticks_one {s t : State} (htick : tick s = .next t) : ticks 1 s = .next t := ticks_next 0 htick

theorem ticks_drawRun {s : State} (hreset : s.resetPin = false) :
    ∃ n ≤ 62, ticks n (issueWrite s) = .next (deliver (drawRun s)) := by
  have hanswer {written : Bool} (htick : tick (issueWrite s) = .next (writeAnswered s.fb written (issueWrite s))) :
      ticks 3 (issueWrite s) = .next (deliver (finishDraw s.fb written (issueWrite s))) := by
    have hrelease : tick (writeAnswered s.fb written (issueWrite s)) = .next (finishDraw s.fb written (issueWrite s)) :=
      tick_wLedlo_eq hreset rfl
    have hdone : (finishDraw s.fb written (issueWrite s)).phase = .done okResponse :=
      rspPort_eq_some.mp (rspPort_finishDraw _ _ _)
    have hreset' : (finishDraw s.fb written (issueWrite s)).resetPin = false := by
      cases written <;> exact hreset
    rw [ticks_next 2 htick, ticks_next 1 hrelease]
    exact ticks_one (tick_done hreset' hdone)
  cases ha : writeAnswerOf s.env with
  | ok => exact ⟨3, by decide, by rw [drawRun_ok ha, hanswer (tick_wWrite_ok hreset rfl ha)]⟩
  | fail => exact ⟨3, by decide, by rw [drawRun_fail ha, hanswer (tick_wWrite_fail hreset rfl ha)]⟩
  | never => exact ⟨0, by decide, by rw [drawRun_never ha, deliver_none (s := issueWrite s) rfl]; rfl⟩

theorem ticks_rdbtnRun {s : State} (hreset : s.resetPin = false) :
    ∃ n ≤ 62, ticks n (armButton s) = .next (deliver (rdbtnRun s)) := by
  have hissue : tick (armButton s) = .next (issueXfer (armButton s)) := tick_rBtnlo hreset rfl
  have hanswer {received : Option Byte}
      (htick : tick (issueXfer (armButton s)) = .next (xferAnswered received (issueXfer (armButton s)))) :
      ticks 3 (armButton s) = .next (deliver (xferAnswered received (issueXfer (armButton s)))) := by
    rw [ticks_next 2 hissue, ticks_next 1 htick]
    exact ticks_one (tick_done hreset rfl)
  cases ha : xferAnswerOf s.env with
  | ok x => exact ⟨3, by decide, by rw [rdbtnRun_ok ha, hanswer (tick_rXfer_ok hreset rfl ha)]⟩
  | fail => exact ⟨3, by decide, by rw [rdbtnRun_fail ha, hanswer (tick_rXfer_fail hreset rfl ha)]⟩
  | never => exact ⟨1, by decide, by rw [ticks_one hissue, rdbtnRun_never ha, deliver_none]; rfl⟩

/-! ### PROX, entry by entry -/

/-- PROX around c with the first k entries evaluated (R28 `P_SCAN(k)`). -/
def scanned (c : LutIdx) (k : Nat) (s : State) : State :=
  { s with
    fb := scanEntries s.lut c ((List.finRange 61).take k) s.fb
    phase := if h : k < 61 then .pScan c ⟨k, h⟩ else .done okResponse }

theorem scanned_zero (c : LutIdx) (s : State) : scanned c 0 s = startScan c s := rfl

theorem scanned_all (c : LutIdx) (s : State) : scanned c 61 s = proxRun c s := rfl

theorem scanned_phase {c : LutIdx} {k : Nat} (hk : k < 61) (s : State) : (scanned c k s).phase = .pScan c ⟨k, hk⟩ := dif_pos hk

/-- Evaluating entry k moves the scan on by one entry. -/
theorem scanOne_scanned {c : LutIdx} {k : Nat} (hk : k < 61) (s : State) :
    scanOne c ⟨k, hk⟩ (scanned c k s) = scanned c (k + 1) s := by
  have htake : (List.finRange 61).take (k + 1) = (List.finRange 61).take k ++ [⟨k, hk⟩] := by
    rw [List.take_succ_eq_append_getElem (by simpa using hk)]
    simp
  simp [scanOne, scanned, scanPhaseAfter, scanEntries, htake]

theorem ticks_scanned {c : LutIdx} {s : State} (hreset : s.resetPin = false) {k : Nat} (hk : k ≤ 61) :
    ticks k (startScan c s) = .next (scanned c k s) := by
  induction k with
  | zero => rfl
  | succ k ih =>
    have hentry : tick (scanned c k s) = .next (scanned c (k + 1) s) := by
      rw [← scanOne_scanned hk]
      exact tick_pScan hreset (scanned_phase hk s)
    rw [ticks_add k 1 (ih (by omega)), ticks_one hentry]

theorem ticks_proxRun {c : LutIdx} {s : State} (hreset : s.resetPin = false) :
    ticks 62 (startScan c s) = .next (deliver (proxRun c s)) := by
  rw [ticks_add 61 1 (ticks_scanned hreset le_rfl), scanned_all]
  exact ticks_one (tick_done hreset rfl)

/-! ### The statement -/

/-- After a command's first event, at most 62 more complete it or bring it to its hang. -/
theorem ticks_beginInstr {s : State} (hreset : s.resetPin = false) (i : Instr) :
    ∃ n ≤ 62, ticks n (deliver (beginInstr i s)) = .next (deliver (runOf i s)) := by
  cases i with
  | setl l => exact ⟨0, by decide, rfl⟩
  | clr => exact ⟨0, by decide, rfl⟩
  | draw => exact ticks_drawRun hreset
  | rdbtn => exact ticks_rdbtnRun hreset
  | prox c =>
    cases hc : lutIndex c with
    | some k => exact ⟨62, le_rfl, by simp only [beginInstr, runOf, hc]; exact ticks_proxRun hreset⟩
    | none => exact ⟨0, by decide, by simp only [beginInstr, runOf, hc]; rfl⟩

theorem ticks_beginWord {w : CmdWord} {s t : State} (hreset : s.resetPin = false)
    (hnext : onNext deliver (executeWord w s) = .next t) : ∃ n ≤ 62, ticks n (deliver (beginWord w s)) = .next t := by
  obtain ⟨u, hu, rfl⟩ := onNext_next.mp hnext
  cases hd : decode w with
  | legal i =>
    rw [executeWord_legal_next hd hu, beginWord, hd]
    exact ticks_beginInstr hreset i
  | illegal c =>
    obtain ⟨-, rfl⟩ := (executeWord_illegal_eq_next_iff hd).mp hu
    exact ⟨0, by decide, by rw [beginWord, hd]; rfl⟩

/-- The client's act in one step, from its first event on. -/
theorem ticks_beginClient {s t : State} (hreset : s.resetPin = false) (hclient : clientStep s = .next t) :
    ∃ n ≤ 62, ticks n (beginClient s) = .next t := by
  cases hc : s.client with
  | frameController =>
    rw [clientStep_fc hc] at hclient
    cases hword : fcWord s with
    | some w =>
      simp only [fcStep, hword] at hclient
      simp only [beginClient, hc, hword]
      exact ticks_beginWord hreset hclient
    | none =>
      simp only [fcStep, hword] at hclient
      simp only [beginClient, hc, hword]
      exact ⟨0, by decide, hclient⟩
  | harness offers responses =>
    cases offers with
    | nil =>
      simp only [clientStep, hc] at hclient
      simp only [beginClient, hc]
      exact ⟨0, by decide, hclient⟩
    | cons w ws =>
      rw [clientStep_harness hc] at hclient
      simp only [beginClient, hc]
      exact ticks_beginWord (s := { s with client := .harness ws responses }) hreset hclient

/-- Settles O59: a reset and an event inside a command are one event; the client's act is its first event and at most 62 more. -/
theorem stepIsARunOfEvents : Obligations.StepIsARunOfEvents := by
  intro s t hstep
  obtain ⟨hreset, rfl⟩ | ⟨hreset, hidle, hclient⟩ | ⟨hreset, hbusy, hadvance⟩ := step_cases hstep
  · exact ⟨1, by decide, by decide, ticks_one (tick_reset hreset)⟩
  · obtain ⟨n, hn, hticks⟩ := ticks_beginClient hreset hclient
    exact ⟨n + 1, by omega, by omega, by rw [ticks_next n (tick_idle hreset hidle), hticks]⟩
  · exact ⟨1, by decide, by decide, ticks_one (by rw [tick_busy hreset hbusy, hadvance])⟩

end Sys2Proof.Machine
end

section
/-! PROOFS. What every event keeps (R27, R28, R37, R131, R175): the CU invariant and the fault set, first event by event, then
over a step as a run of events. -/

namespace Sys2Proof.Machine

/-! ### The CU invariant, event by event -/

/-- A reset leaves the latch lines H, no fault, and the table alone. -/
theorem cuInv_applyReset {s : State} (h : CuInv s) : CuInv (applyReset s) := by
  obtain ⟨-, -, hlut, -⟩ := h
  have hlatches : latchesOfPhase (applyReset s) := by simp [latchesOfPhase, latchesIdle]
  have hsnap : snapshotIsFb (applyReset s) := by simp [snapshotIsFb]
  exact ⟨hlatches, hsnap, by rwa [applyReset_lut], by rw [applyReset_faults]; exact List.nodup_nil⟩

theorem latchesIdle_of_cuInv {s : State} (hidle : s.phase = .idle) (h : CuInv s) : latchesIdle s := by
  obtain ⟨hlatches, -⟩ := h
  rwa [latchesOfPhase, hidle] at hlatches

theorem cuInv_illegalCommand {s : State} (hidle : s.phase = .idle) (h : CuInv s) (w : CmdWord) (c : Cause) :
    CuInv (illegalCommand w c s) := by
  have hlatches := latchesIdle_of_cuInv hidle h
  obtain ⟨-, -, hlut, hfaults⟩ := h
  exact ⟨hlatches, trivial, hlut, nodup_recordFault hfaults⟩

/-- The first event of each command moves at most its own latch line, and DRAW's takes FB for the snapshot. -/
theorem cuInv_beginInstr {s : State} (hidle : s.phase = .idle) (h : CuInv s) (i : Instr) : CuInv (beginInstr i s) := by
  have hlatches := latchesIdle_of_cuInv hidle h
  have ⟨_, _, hlut, hfaults⟩ := h
  cases i with
  | setl l => exact ⟨hlatches, trivial, hlut, hfaults⟩
  | clr => exact ⟨hlatches, trivial, hlut, hfaults⟩
  | draw => exact ⟨hlatches, rfl, hlut, hfaults⟩
  | rdbtn => exact ⟨⟨hlatches.1, rfl⟩, trivial, hlut, hfaults⟩
  | prox c =>
    cases hc : lutIndex c with
    | some k => simp only [beginInstr, hc]; exact ⟨hlatches, trivial, hlut, hfaults⟩
    | none => simp only [beginInstr, hc]; exact cuInv_illegalCommand hidle h _ _

theorem cuInv_beginWord {s : State} (hidle : s.phase = .idle) (h : CuInv s) (w : CmdWord) : CuInv (beginWord w s) := by
  unfold beginWord
  cases decode w with
  | legal i => exact cuInv_beginInstr hidle h i
  | illegal c => exact cuInv_illegalCommand hidle h w c

/-- The client's taking of the response touches nothing that the invariant speaks of but the phase. -/
theorem cuInv_clientReceive {s : State} {r : CmdWord} (hphase : s.phase = .done r) (h : CuInv s) :
    CuInv (clientReceive r { s with phase := .idle }) := by
  obtain ⟨sa, fp, cl, hreceive⟩ := clientReceive_eq r { s with phase := .idle }
  obtain ⟨hlatches, -, hlut, hfaults⟩ := h
  rw [latchesOfPhase, hphase] at hlatches
  rw [hreceive]
  exact ⟨hlatches, trivial, hlut, hfaults⟩

theorem cuInv_deliver {s : State} (h : CuInv s) : CuInv (deliver s) := by
  cases hr : rspPort s with
  | none => rwa [deliver_none hr]
  | some r =>
    rw [deliver_done (rspPort_eq_some.mp hr)]
    exact cuInv_clientReceive (rspPort_eq_some.mp hr) h

theorem cuInv_fcInternal {s : State} (h : CuInv s) : CuInv (fcInternal s) := by
  obtain ⟨sc, fp, tr, hinternal⟩ := fcInternal_eq s
  rw [hinternal]
  exact h

theorem cuInv_beginClient {s : State} (hidle : s.phase = .idle) (h : CuInv s) : CuInv (beginClient s) := by
  unfold beginClient
  cases s.client with
  | frameController =>
    cases fcWord s with
    | none => exact cuInv_fcInternal h
    | some w => exact cuInv_deliver (cuInv_beginWord hidle h w)
  | harness offers responses =>
    cases offers with
    | nil => exact h
    | cons w ws => exact cuInv_deliver (cuInv_beginWord (s := { s with client := .harness ws responses }) hidle h w)

theorem cuInv_scanOne {s : State} {c k : LutIdx} (hphase : s.phase = .pScan c k) (h : CuInv s) : CuInv (scanOne c k s) := by
  obtain ⟨hlatches, -, hlut, hfaults⟩ := h
  rw [latchesOfPhase, hphase] at hlatches
  have hnext : (scanOne c k s).phase = scanPhaseAfter c k := rfl
  unfold scanPhaseAfter at hnext
  refine ⟨?latches, ?snapshot, hlut, hfaults⟩
  case latches => rw [latchesOfPhase, hnext]; split_ifs <;> exact hlatches
  case snapshot => rw [snapshotIsFb, hnext]; split_ifs <;> trivial

/-- Inside a command each event moves one latch line to the level of the phase it enters. -/
theorem cuInv_advance {s t : State} (hbusy : s.phase ≠ .idle) (hadvance : advance s = .next t) (h : CuInv s) : CuInv t := by
  have ⟨hlatches, hsnap, hlut, hfaults⟩ := h
  rw [latchesOfPhase] at hlatches
  rw [snapshotIsFb] at hsnap
  obtain ⟨snap, hphase, -, rfl⟩ | ⟨snap, hphase, -, rfl⟩ | ⟨snap, w, hphase, rfl⟩ | ⟨hphase, rfl⟩ | ⟨x, hphase, -, rfl⟩ |
    ⟨hphase, -, rfl⟩ | ⟨c, k, hphase, rfl⟩ | ⟨r, hphase, rfl⟩ := advance_cases hadvance hbusy
  all_goals rw [hphase] at hlatches hsnap
  · exact ⟨⟨rfl, hlatches.2⟩, hsnap, hlut, hfaults⟩
  · exact ⟨⟨rfl, hlatches.2⟩, hsnap, hlut, hfaults⟩
  · cases w <;> exact ⟨⟨rfl, hlatches.2⟩, trivial, hlut, hfaults⟩
  · exact ⟨hlatches, trivial, hlut, hfaults⟩
  · exact ⟨⟨hlatches.1, rfl⟩, trivial, hlut, hfaults⟩
  · exact ⟨⟨hlatches.1, rfl⟩, trivial, hlut, hfaults⟩
  · exact cuInv_scanOne hphase h
  · exact cuInv_clientReceive hphase h

/-- Settles O57: an event is a reset, the client's first event or an event inside a command. -/
theorem invariantKeptByEveryEvent : Obligations.InvariantKeptByEveryEvent := by
  intro s t h htick
  obtain ⟨-, rfl⟩ | ⟨-, hidle, rfl⟩ | ⟨-, hbusy, hadvance⟩ := tick_cases htick
  · exact cuInv_applyReset h
  · exact cuInv_beginClient hidle h
  · exact cuInv_advance hbusy hadvance h

/-- In every phase at least one latch line is H (R27). -/
theorem latchesExclusive_of_latchesOfPhase {s : State} (h : latchesOfPhase s) : latchesExclusive s := by
  rintro ⟨hled, hbtn⟩
  unfold latchesOfPhase at h
  split at h <;> simp [latchesIdle, hled, hbtn] at h

/-- Settles O58: the invariant of O57 gives the levels of the phase that the event enters. -/
theorem latchesAreExclusiveAtEveryEvent : Obligations.LatchesAreExclusiveAtEveryEvent := by
  intro s t h htick
  have hinv : CuInv t := invariantKeptByEveryEvent s t h htick
  have ⟨hlatches, _⟩ := hinv
  refine ⟨latchesExclusive_of_latchesOfPhase hlatches, fun snap hphase => ?write, fun hphase => ?xfer,
    fun hidle => latchesIdle_of_cuInv hidle hinv⟩
  all_goals rw [latchesOfPhase, hphase] at hlatches
  case write => exact hlatches.2
  case xfer => exact hlatches.1

/-! ### From events to steps -/

/-- What every event keeps, a run of events keeps. -/
theorem ticks_keep {P : State → Prop} (hkeep : ∀ s t, P s → tick s = .next t → P t) {n : Nat} {s t : State} (hs : P s)
    (hticks : ticks n s = .next t) : P t := by
  induction n generalizing s with
  | zero =>
    cases hticks
    exact hs
  | succ n ih =>
    unfold ticks at hticks
    split at hticks
    case h_1 u htick => exact ih (hkeep s u hs htick) hticks
    case h_2 => cases hticks
    case h_3 => cases hticks

/-- What every event keeps, a step keeps (log 7). -/
theorem step_keeps {P : State → Prop} (hkeep : ∀ s t, P s → tick s = .next t → P t) {s t : State} (hs : P s)
    (hstep : step s = .next t) : P t := by
  obtain ⟨n, -, -, hticks⟩ := stepIsARunOfEvents s t hstep
  exact ticks_keep hkeep hs hticks

/-! ### Between commands -/

theorem rspPort_of_hung {s : State} (h : hung s) : rspPort s = none := by
  unfold hung at h
  unfold rspPort
  split at h <;> simp_all

theorem rspPort_of_atRest {s : State} (h : atRest s) : rspPort s = none := by
  obtain hidle | hhung := h
  · simp [rspPort, hidle]
  · exact rspPort_of_hung hhung

/-- A command performed in `IDLE` has its response ready, or it is a bus command that hangs (R119). -/
theorem runOf_done_or_hung (i : Instr) (s : State) : (∃ r, (runOf i s).phase = .done r) ∨ hung (runOf i s) := by
  cases i with
  | setl l => exact .inl ⟨_, rfl⟩
  | clr => exact .inl ⟨_, rfl⟩
  | draw =>
    cases ha : writeAnswerOf s.env with
    | ok => exact .inl ⟨okResponse, by rw [runOf, drawRun_ok ha]; rfl⟩
    | fail => exact .inl ⟨okResponse, by rw [runOf, drawRun_fail ha]; rfl⟩
    | never => exact .inr (by rw [runOf, drawRun_never ha]; exact ha)
  | rdbtn =>
    cases ha : xferAnswerOf s.env with
    | ok x => exact .inl ⟨_, by rw [runOf, rdbtnRun_ok ha]; rfl⟩
    | fail => exact .inl ⟨_, by rw [runOf, rdbtnRun_fail ha]; rfl⟩
    | never => exact .inr (by rw [runOf, rdbtnRun_never ha]; exact ha)
  | prox c =>
    cases hc : lutIndex c with
    | some k => exact .inl ⟨okResponse, by simp only [runOf, hc]; rfl⟩
    | none => exact .inl ⟨_, by simp only [runOf, hc]; rfl⟩

theorem clientReceive_phase (r : CmdWord) (s : State) : (clientReceive r s).phase = s.phase := by
  obtain ⟨sa, fp, cl, hreceive⟩ := clientReceive_eq r s
  rw [hreceive]

theorem atRest_deliver {s : State} (h : (∃ r, s.phase = .done r) ∨ hung s) : atRest (deliver s) := by
  obtain ⟨r, hdone⟩ | hhung := h
  · exact .inl (by rw [deliver_done hdone, clientReceive_phase])
  · rw [deliver_none (rspPort_of_hung hhung)]
    exact .inr hhung

theorem atRest_of_executeWord {w : CmdWord} {s t : State} (hnext : onNext deliver (executeWord w s) = .next t) :
    atRest t := by
  obtain ⟨u, hu, rfl⟩ := onNext_next.mp hnext
  cases hd : decode w with
  | legal i =>
    rw [executeWord_legal_next hd hu]
    exact atRest_deliver (runOf_done_or_hung i s)
  | illegal c =>
    obtain ⟨-, rfl⟩ := (executeWord_illegal_eq_next_iff hd).mp hu
    exact atRest_deliver (.inl ⟨_, rfl⟩)

theorem fcInternal_phase (s : State) : (fcInternal s).phase = s.phase := by
  obtain ⟨sc, fp, tr, hinternal⟩ := fcInternal_eq s
  rw [hinternal]

theorem atRest_of_clientStep {s t : State} (hidle : s.phase = .idle) (hclient : clientStep s = .next t) : atRest t := by
  unfold clientStep at hclient
  split at hclient
  case h_1 =>
    unfold fcStep at hclient
    split at hclient
    case h_1 w hw => exact atRest_of_executeWord hclient
    case h_2 hw =>
      cases hclient
      exact .inl ((fcInternal_phase s).trans hidle)
  case h_2 =>
    cases hclient
    exact .inl hidle
  case h_3 => exact atRest_of_executeWord hclient

/-- From rest the CU can only be reset or take the client's next command: a hung one has no step. -/
theorem atRest_of_step {s t : State} (h : atRest s) (hstep : step s = .next t) : atRest t := by
  obtain ⟨-, rfl⟩ | ⟨-, hidle, hclient⟩ | ⟨-, hbusy, hadvance⟩ := step_cases hstep
  · exact .inl (applyReset_phase s)
  · exact atRest_of_clientStep hidle hclient
  · rw [advance_hung (h.resolve_left hbusy)] at hadvance
    cases hadvance

/-- Settles O56: a step is a run of events (O59), each of which keeps the invariant (O57). -/
theorem invariantKeptByEveryStep : Obligations.InvariantKeptByEveryStep :=
  ⟨fun _ _ h hstep => step_keeps invariantKeptByEveryEvent h hstep,
    fun _ _ h hstep => ⟨atRest_of_step h hstep, rspPort_of_atRest (atRest_of_step h hstep)⟩⟩

/-! ### The fault set only grows -/

/-- The fault set of `s` is still there in `t`, and RESET is as it was. -/
def FaultsKept (s t : State) : Prop := t.resetPin = s.resetPin ∧ s.faults ⊆ t.faults

theorem FaultsKept.trans {s t u : State} (hst : FaultsKept s t) (htu : FaultsKept t u) : FaultsKept s u :=
  ⟨htu.1.trans hst.1, List.Subset.trans hst.2 htu.2⟩

theorem faultsKept_of_eq {s t : State} (hreset : t.resetPin = s.resetPin) (hfaults : t.faults = s.faults) : FaultsKept s t :=
  ⟨hreset, hfaults ▸ List.Subset.refl _⟩

theorem faultsKept_illegalCommand (w : CmdWord) (c : Cause) (s : State) : FaultsKept s (illegalCommand w c s) :=
  ⟨rfl, faults_subset_recordFault ⟨w, c⟩ s⟩

theorem faultsKept_beginInstr (i : Instr) (s : State) : FaultsKept s (beginInstr i s) := by
  cases i with
  | setl | clr | draw | rdbtn => exact faultsKept_of_eq rfl rfl
  | prox c =>
    cases hc : lutIndex c with
    | some k => simp only [beginInstr, hc]; exact faultsKept_of_eq rfl rfl
    | none => simp only [beginInstr, hc]; exact faultsKept_illegalCommand _ _ s

theorem faultsKept_beginWord (w : CmdWord) (s : State) : FaultsKept s (beginWord w s) := by
  unfold beginWord
  cases decode w with
  | legal i => exact faultsKept_beginInstr i s
  | illegal c => exact faultsKept_illegalCommand w c s

theorem faultsKept_deliver (s : State) : FaultsKept s (deliver s) := by
  obtain ⟨ph, sa, fp, cl, hdeliver⟩ := deliver_eq s
  rw [hdeliver]
  exact faultsKept_of_eq rfl rfl

theorem faultsKept_beginClient (s : State) : FaultsKept s (beginClient s) := by
  unfold beginClient
  cases s.client with
  | frameController =>
    cases fcWord s with
    | none =>
      obtain ⟨sc, fp, tr, hinternal⟩ := fcInternal_eq s
      exact hinternal ▸ faultsKept_of_eq rfl rfl
    | some w => exact (faultsKept_beginWord w s).trans (faultsKept_deliver _)
  | harness offers responses =>
    cases offers with
    | nil => exact faultsKept_of_eq rfl rfl
    | cons w ws =>
      exact (faultsKept_beginWord w { s with client := .harness ws responses }).trans (faultsKept_deliver _)

theorem faultsKept_advance {s t : State} (hbusy : s.phase ≠ .idle) (hadvance : advance s = .next t) : FaultsKept s t := by
  obtain ⟨snap, -, -, rfl⟩ | ⟨snap, -, -, rfl⟩ | ⟨snap, w, -, rfl⟩ | ⟨-, rfl⟩ | ⟨x, -, -, rfl⟩ | ⟨-, -, rfl⟩ |
    ⟨c, k, -, rfl⟩ | ⟨r, hphase, rfl⟩ := advance_cases hadvance hbusy
  · exact faultsKept_of_eq rfl rfl
  · exact faultsKept_of_eq rfl rfl
  · cases w <;> exact faultsKept_of_eq rfl rfl
  · exact faultsKept_of_eq rfl rfl
  · exact faultsKept_of_eq rfl rfl
  · exact faultsKept_of_eq rfl rfl
  · exact faultsKept_of_eq rfl rfl
  · rw [← deliver_done hphase]
    exact faultsKept_deliver s

theorem faultsKept_tick {s t : State} (hreset : s.resetPin = false) (htick : tick s = .next t) : FaultsKept s t := by
  by_cases hidle : s.phase = .idle
  · rw [tick_idle hreset hidle] at htick
    cases htick
    exact faultsKept_beginClient s
  · rw [tick_busy hreset hidle] at htick
    exact faultsKept_advance hidle htick

/-- Settles O38: an event without RESET keeps the faults and asserts no RESET, so a step, a run of events, keeps them too. -/
theorem faultsAreNeverCleared : Obligations.FaultsAreNeverCleared := by
  intro s t hreset hnext
  have hkeep (u v : State) (hu : FaultsKept s u) (htick : tick u = .next v) : FaultsKept s v :=
    hu.trans (faultsKept_tick (hu.1.trans hreset) htick)
  have hself : FaultsKept s s := faultsKept_of_eq rfl rfl
  obtain hstep | htick := hnext
  · exact (step_keeps hkeep hself hstep).2
  · exact (hkeep s t hself htick).2

end Sys2Proof.Machine
end

section
/-! PROOFS. Decode and encode agree (R84, R85), and the command port (R81): what `exec` of a command, a step and a busy CU
make of a word. -/

namespace Sys2Proof

/-- Settles O29: a well-formed command passes every check on its own encoding. -/
theorem decodeOfEncode : Obligations.DecodeOfEncode :=
  fun _ hwf => decode_eq_legal_iff.mpr ⟨hwf, rfl⟩

/-- Settles O31: each word is the encoding of the command, or falls to the check that R172 names. -/
theorem decodedWordsOfTheSpec : Obligations.DecodedWordsOfTheSpec :=
  ⟨decode_encode (.setl 9), decode_encode (.setl 63), decode_encode .clr, decode_encode .draw, decode_encode .rdbtn,
    decode_encode (.prox 60), decode_encode (.prox 61), decode_eq_reservedField_iff.mpr (by decide),
    decode_eq_reservedOp_iff.mpr (by decide)⟩

end Sys2Proof

namespace Sys2Proof.Machine

/-- The word of any command term, legal or not, is performed as `exec` performs the term (log 12). -/
theorem executeWord_encode (i : Instr) (s : State) : executeWord (encode i) s = exec i s := by
  by_cases hwf : i.wf = true
  · exact executeWord_legal (decode_eq_legal_iff.mpr ⟨hwf, rfl⟩) s
  · have hillegal : decode (encode i) = .illegal .noLutEntry := by rw [decode_encode, if_neg hwf]
    rw [executeWord_illegal hillegal, exec_eq_accept]
    cases i with
    | setl | clr | draw | rdbtn => exact absurd rfl hwf
    | prox c =>
      have hc : ¬ c.val < 61 := fun hc => hwf (decide_eq_true hc)
      rw [runOf_prox_ge hc]
      rfl

/-- Settles O30: a legal word is the encoding of the command it decodes to and of no other, and an illegal one of none. -/
theorem everyWordIsOneCommandOrIllegal : Obligations.EveryWordIsOneCommandOrIllegal := by
  refine ⟨fun w => ?word, executeWord_encode⟩
  cases hd : decode w with
  | legal i =>
    obtain ⟨hwf, henc⟩ := decode_eq_legal_iff.mp hd
    refine .inl ⟨i, hwf, henc, rfl, fun j hj hjenc => ?_⟩
    rw [decode_eq_legal_iff.mpr ⟨hj, hjenc⟩] at hd
    exact Decoded.legal.inj hd
  | illegal c =>
    refine .inr ⟨⟨c, rfl⟩, fun j hj hjenc => ?_⟩
    rw [decode_eq_legal_iff.mpr ⟨hj, hjenc⟩] at hd
    cases hd

/-! ### A busy CU -/

theorem exec_busy {s : State} (hbusy : s.phase ≠ .idle) (i : Instr) : exec i s = .fault .heldOff := by
  rw [exec_eq_accept, accept_busy hbusy]

theorem executeWord_busy {s : State} (hbusy : s.phase ≠ .idle) (w : CmdWord) : executeWord w s = .fault .heldOff := by
  unfold executeWord
  cases decode w with
  | legal i => exact exec_busy hbusy i
  | illegal c => exact accept_busy hbusy _

theorem fcReceive_client (r : CmdWord) (s : State) : (fcReceive r s).client = s.client := by
  unfold fcReceive
  split <;> rfl

theorem clientReceive_client (r : CmdWord) (s : State) :
    (clientReceive r s).client = s.client ∨
      ∃ ws rs, s.client = .harness ws rs ∧ (clientReceive r s).client = .harness ws (rs ++ [r]) := by
  unfold clientReceive
  cases hclient : s.client with
  | frameController =>
    exact .inl ((fcReceive_client r s).trans hclient)
  | harness ws rs => exact .inr ⟨ws, rs, rfl, rfl⟩

/-- Only the last event of a command touches the client, which takes the response there. -/
theorem advance_client {s t : State} (hbusy : s.phase ≠ .idle) (hadvance : advance s = .next t) :
    t.client = s.client ∨ ∃ ws rs r, rspPort s = some r ∧ s.client = .harness ws rs ∧ t.client = .harness ws (rs ++ [r]) := by
  obtain ⟨snap, -, -, rfl⟩ | ⟨snap, -, -, rfl⟩ | ⟨snap, w, -, rfl⟩ | ⟨-, rfl⟩ | ⟨x, -, -, rfl⟩ | ⟨-, -, rfl⟩ |
    ⟨c, k, -, rfl⟩ | ⟨r, hphase, rfl⟩ := advance_cases hadvance hbusy
  · exact .inl rfl
  · exact .inl rfl
  · cases w <;> exact .inl rfl
  · exact .inl rfl
  · exact .inl rfl
  · exact .inl rfl
  · exact .inl rfl
  · obtain hsame | ⟨ws, rs, hclient, htaken⟩ := clientReceive_client r { s with phase := .idle }
    · exact .inl hsame
    · exact .inr ⟨ws, rs, r, rspPort_eq_some.mpr hphase, hclient, htaken⟩

/-- Settles O33: outside `IDLE` a step is a reset or an event inside the command. -/
theorem busyUnitHoldsTheOffer : Obligations.BusyUnitHoldsTheOffer := by
  intro s hbusy
  refine ⟨exec_busy hbusy, executeWord_busy hbusy, fun t hstep => ?client⟩
  obtain ⟨-, rfl⟩ | ⟨-, hidle, -⟩ | ⟨-, -, hadvance⟩ := step_cases hstep
  · exact .inl (applyReset_client s)
  · exact absurd hidle hbusy
  · exact advance_client hbusy hadvance

/-! ### A step is the command on the port -/

theorem tableWord_toNat (w : CmdWord) : tableWord 16 w.toNat = w := by
  rw [tableWord, Nat.mod_eq_of_lt w.isLt, BitVec.ofNat_toNat, BitVec.setWidth_eq]

theorem offering_eq (w : CmdWord) (c : Client) : ∃ ws rs, offering w c = .harness (w :: ws) rs := by
  match c with
  | .frameController => exact ⟨[], [], rfl⟩
  | .harness [] rs => exact ⟨[], rs, rfl⟩
  | .harness (_ :: ws) rs => exact ⟨ws, rs, rfl⟩

theorem step_harness {s : State} {w : CmdWord} {i : Instr} {ws rs : List CmdWord} (hreset : s.resetPin = false)
    (hidle : s.phase = .idle) (hclient : s.client = .harness (w :: ws) rs) (hd : decode w = .legal i) :
    step s = onNext deliver (exec i { s with client := .harness ws rs }) := by
  rw [step_idle hreset hidle, clientStep_harness hclient, executeWord_legal hd]

theorem deliver_fc {t : State} {r : CmdWord} (hr : rspPort t = some r) (hclient : t.client = .frameController) :
    deliver t = fcReceive r { t with phase := .idle } := by
  rw [deliver_done (rspPort_eq_some.mp hr), clientReceive, hclient]

theorem deliver_harness {t : State} {r : CmdWord} {ws rs : List CmdWord} (hr : rspPort t = some r)
    (hclient : t.client = .harness ws rs) :
    deliver t = { t with phase := .idle, client := .harness ws (rs ++ [r]) } := by
  rw [deliver_done (rspPort_eq_some.mp hr), clientReceive, hclient]

/-- Settles O32: the harness's step and the FC's both perform the word on the port and deliver the response. -/
theorem stepRunsTheDecodedCommand : Obligations.StepRunsTheDecodedCommand := by
  intro s w i hreset hidle hd
  refine ⟨fun ws rs hclient => step_harness hreset hidle hclient hd, fun hclient hword => ?fc, fun s' => ?fetch,
    fun t => deliver_none, fun t r hr => ⟨deliver_fc hr, fun ws rs => deliver_harness hr⟩⟩
  case fc => rw [step_idle hreset hidle, clientStep_fc hclient, fcStep, hword, ← executeWord_legal hd]
  case fetch =>
    obtain ⟨ws, rs, hoffer⟩ := offering_eq w s'.client
    have hclient : (s'.withFetchWord 16 w.toNat).client = .harness (w :: ws) rs := by
      simpa only [State.withFetchWord, tableWord_toNat] using hoffer
    exact ⟨ws, rs, step_harness rfl rfl hclient hd⟩

end Sys2Proof.Machine
end

section
/-! PROOFS. The Frame Controller's frames (R150 to R161): a step either moves on to the next phase or hangs in its phase, and
six of them are a frame. -/

namespace Sys2Proof.Machine

/-! ### One step of the FC, from any levels of the latch lines -/

/-- The FC is about to act: it is the client, the CU is in `IDLE`, and no reset comes. -/
structure FcReady (s : State) : Prop where
  client : s.client = .frameController
  reset : s.resetPin = false
  idle : s.phase = .idle

/-- FB after the FC's phase is complete: FILL and CLEAR write it (R152, R155). -/
def fbAfterPhase (s : State) : Fb :=
  match s.fcPhase with
  | .fill => fillFb s.lut s.sample s.scan s.fb
  | .clear => zeroFb
  | .sample => s.fb
  | .flush => s.fb
  | .wait => s.fb
  | .advance => s.fb

/-- From `s` to `t` the FC has completed its phase (R150). -/
structure FcMoved (s t : State) : Prop where
  ready : FcReady t
  fcPhase : t.fcPhase = fcNextPhase s.fcPhase
  fb : t.fb = fbAfterPhase s
  lut : t.lut = s.lut
  faults : t.faults = s.faults
  sample : s.fcPhase ≠ .sample → t.sample = s.sample
  scan : t.scan = if s.fcPhase = .advance then scanNext s.scan else s.scan
  latches : latchesIdle s → latchesIdle t
  offBus : s.fcPhase ≠ .sample ∧ s.fcPhase ≠ .flush → t.env = s.env ∧ t.ledOut = s.ledOut

/-- From `s` to `t` the FC has issued a bus command, and hangs in it (R151, R153, R177). -/
structure FcHung (s t : State) : Prop where
  hung : hung t
  bus : s.fcPhase = .sample ∨ s.fcPhase = .flush
  client : t.client = .frameController
  reset : t.resetPin = false
  fcPhase : t.fcPhase = s.fcPhase
  fb : t.fb = s.fb
  lut : t.lut = s.lut
  faults : t.faults = s.faults
  sample : t.sample = s.sample
  scan : t.scan = s.scan

theorem fcInternal_wait {s : State} (hphase : s.fcPhase = .wait) :
    fcInternal s = record [.delay Config.frameDelayMs] { s with fcPhase := .clear } := by
  simp only [fcInternal, hphase]

theorem fcWord_wait {s : State} (hphase : s.fcPhase = .wait) : fcWord s = none := by
  simp only [fcWord, hphase]

theorem deliver_xferAnswered {s : State} (hclient : s.client = .frameController) (hphase : s.fcPhase = .sample)
    (received : Option Byte) :
    deliver (xferAnswered received s) =
      { xferAnswered received s with phase := .idle, sample := buttonByte received, fcPhase := .fill } := by
  have hrsp : rspPort (xferAnswered received s) = some (dataResponse (buttonByte received)) := rfl
  rw [deliver_fc hrsp hclient, fcReceive_sample (by exact hphase), dataField_dataResponse]

theorem deliver_finishDraw {s : State} (hclient : s.client = .frameController) (hphase : s.fcPhase = .flush)
    (snap : Fb) (written : Bool) :
    deliver (finishDraw snap written s) = { finishDraw snap written s with phase := .idle, fcPhase := .wait } := by
  have hclient' : (finishDraw snap written s).client = .frameController := by cases written <;> exact hclient
  have hphase' : (finishDraw snap written s).fcPhase = .flush := by cases written <;> exact hphase
  rw [deliver_fc (rspPort_finishDraw snap written s) hclient', fcReceive_flush (by exact hphase')]

section
variable {s : State} (hready : FcReady s)
include hready

theorem step_sample_cases (hphase : s.fcPhase = .sample) :
    ∃ t, step s = .next t ∧ (FcMoved s t ∨ FcHung s t) := by
  obtain ⟨hclient, hreset, hidle⟩ := hready
  refine ⟨_, step_command hclient hreset hidle (fcWord_sample hphase) rfl, ?_⟩
  rw [runOf]
  have hanswered (received : Option Byte) : FcMoved s (deliver (xferAnswered received (issueXfer (armButton s)))) := by
    rw [deliver_xferAnswered (s := issueXfer (armButton s)) hclient hphase]
    exact ⟨⟨hclient, hreset, rfl⟩, by rw [hphase]; rfl, by rw [fbAfterPhase, hphase]; rfl, rfl, rfl,
      fun hother => absurd hphase hother, by rw [hphase]; rfl, fun hlatches => ⟨hlatches.1, rfl⟩,
      fun hoff => absurd hphase hoff.1⟩
  cases ha : xferAnswerOf s.env with
  | ok x => rw [rdbtnRun_ok ha]; exact .inl (hanswered _)
  | fail => rw [rdbtnRun_fail ha]; exact .inl (hanswered _)
  | never =>
    rw [rdbtnRun_never ha, deliver_none (s := issueXfer (armButton s)) rfl]
    exact .inr ⟨ha, .inl hphase, hclient, hreset, rfl, rfl, rfl, rfl, rfl, rfl⟩

theorem step_flush_cases (hphase : s.fcPhase = .flush) :
    ∃ t, step s = .next t ∧ (FcMoved s t ∨ FcHung s t) := by
  obtain ⟨hclient, hreset, hidle⟩ := hready
  refine ⟨_, step_command hclient hreset hidle (fcWord_flush hphase) rfl, ?_⟩
  rw [runOf]
  have hanswered (written : Bool) : FcMoved s (deliver (finishDraw s.fb written (issueWrite s))) := by
    rw [deliver_finishDraw (s := issueWrite s) hclient hphase]
    cases written <;>
      exact ⟨⟨hclient, hreset, rfl⟩, by rw [hphase]; rfl, by rw [fbAfterPhase, hphase]; rfl, rfl, rfl,
        fun _ => rfl, by rw [hphase]; rfl, fun hlatches => ⟨rfl, hlatches.2⟩, fun hoff => absurd hphase hoff.2⟩
  cases ha : writeAnswerOf s.env with
  | ok => rw [drawRun_ok ha]; exact .inl (hanswered true)
  | fail => rw [drawRun_fail ha]; exact .inl (hanswered false)
  | never =>
    rw [drawRun_never ha, deliver_none (s := issueWrite s) rfl]
    exact .inr ⟨ha, .inr hphase, hclient, hreset, rfl, rfl, rfl, rfl, rfl, rfl⟩

/-- Everything a step of the FC can do (R150, R177). -/
theorem fcMoved_or_fcHung : ∃ t, step s = .next t ∧ (FcMoved s t ∨ FcHung s t) := by
  have ⟨hclient, hreset, hidle⟩ := hready
  cases hphase : s.fcPhase with
  | sample => exact step_sample_cases hready hphase
  | flush => exact step_flush_cases hready hphase
  | fill =>
    refine ⟨_, step_fill hclient hreset hidle hphase, .inl ?_⟩
    exact ⟨⟨hclient, hreset, hidle⟩, by rw [hphase]; rfl, by rw [fbAfterPhase, hphase], rfl, rfl, fun _ => rfl,
      by rw [hphase]; rfl, id, fun _ => ⟨rfl, rfl⟩⟩
  | wait =>
    refine ⟨_, step_internal hclient hreset hidle (fcWord_wait hphase), .inl ?_⟩
    rw [fcInternal_wait hphase]
    exact ⟨⟨hclient, hreset, hidle⟩, by rw [hphase]; rfl, by rw [fbAfterPhase, hphase]; rfl, rfl, rfl, fun _ => rfl,
      by rw [hphase]; rfl, id, fun _ => ⟨rfl, rfl⟩⟩
  | clear =>
    refine ⟨_, step_clear hclient hreset hidle hphase, .inl ?_⟩
    exact ⟨⟨hclient, hreset, hidle⟩, by rw [hphase]; rfl, by rw [fbAfterPhase, hphase], rfl, rfl, fun _ => rfl,
      by rw [hphase]; rfl, id, fun _ => ⟨rfl, rfl⟩⟩
  | advance =>
    refine ⟨_, step_advance hclient hreset hidle hphase, .inl ?_⟩
    exact ⟨⟨hclient, hreset, hidle⟩, by rw [hphase]; rfl, by rw [fbAfterPhase, hphase], rfl, rfl, fun _ => rfl,
      by rw [hphase]; rfl, id, fun _ => ⟨rfl, rfl⟩⟩

theorem fcMoved_or_fcHung_of_step {t : State} (hstep : step s = .next t) : FcMoved s t ∨ FcHung s t := by
  obtain ⟨u, hu, hcases⟩ := fcMoved_or_fcHung hready
  rw [hu] at hstep
  cases hstep
  exact hcases

end

/-! ### The phases -/

theorem fcPhaseCode_next (p : FcPhase) : (fcPhaseCode (fcNextPhase p)).toNat = ((fcPhaseCode p).toNat + 1) % 6 := by
  cases p <;> rfl

/-- Settles O48: the FC moves to `fcNextPhase`, or hangs. -/
theorem framePhasesInTheFixedCycle : Obligations.FramePhasesInTheFixedCycle := by
  refine ⟨fun s t hclient hreset hidle hstep => ?_, rfl, rfl, rfl, rfl, rfl, rfl⟩
  obtain hmoved | hhung := fcMoved_or_fcHung_of_step ⟨hclient, hreset, hidle⟩ hstep
  · exact .inl ⟨by rw [hmoved.fcPhase, fcPhaseCode_next], hmoved.ready.idle⟩
  · exact .inr ⟨hhung.fcPhase, hhung.hung, hhung.bus⟩

/-- Settles O45: P_WAIT has no word to offer, and its step is the FC's own. -/
theorem waitPhaseDelaysOnce : Obligations.WaitPhaseDelaysOnce := by
  intro s hclient hreset hidle hphase
  refine ⟨fcWord_wait hphase, ?_⟩
  rw [step_internal hclient hreset hidle (fcWord_wait hphase), fcInternal_wait hphase]
  rfl

/-- Settles O49: phase by phase, the word is the encoding of a well-formed command. -/
theorem frameControllerIssuesOnlyLegalCommands : Obligations.FrameControllerIssuesOnlyLegalCommands := by
  intro s w hword
  cases hphase : s.fcPhase with
  | sample =>
    rw [fcWord_sample hphase] at hword
    cases hword
    exact ⟨.rdbtn, decode_encode .rdbtn, rfl, by simp⟩
  | fill =>
    rw [fcWord_fill hphase, fillWord_eq] at hword
    cases hword
    refine ⟨fillInstr s.sample s.scan, decode_eq_legal_iff.mpr ⟨fillInstr_wf _ _, rfl⟩, fillInstr_wf _ _, ?_⟩
    unfold fillInstr
    split_ifs <;> simp
  | flush =>
    rw [fcWord_flush hphase] at hword
    cases hword
    exact ⟨.draw, decode_encode .draw, rfl, by simp⟩
  | clear =>
    rw [fcWord_clear hphase] at hword
    cases hword
    exact ⟨.clr, decode_encode .clr, rfl, by simp⟩
  | wait => rw [fcWord_wait hphase] at hword; cases hword
  | advance => rw [fcWord_advance hphase] at hword; cases hword

/-! ### The frame invariant -/

theorem frameFb_eq_fillFb (lut : Lut) (sample : Byte) (scan : LutIdx) : frameFb lut sample scan = fillFb lut sample scan zeroFb :=
  rfl

/-- FB stays as the frame has it from one phase to the next (R160). -/
theorem fbOfFcPhase_of_fcMoved {s t : State} (h : fbOfFcPhase s) (hmoved : FcMoved s t) : fbOfFcPhase t := by
  obtain ⟨-, hnext, hfb, hlut, -, hsample, hscan, -, -⟩ := hmoved
  rw [fbOfFcPhase] at h
  rw [fbAfterPhase] at hfb
  rw [fbOfFcPhase, hnext]
  have hset (hother : s.fcPhase ≠ .sample) (hlast : s.fcPhase ≠ .advance) :
      frameFb t.lut t.sample t.scan = frameFb s.lut s.sample s.scan := by
    rw [hlut, hsample hother, hscan, if_neg hlast]
  cases hphase : s.fcPhase with
  | sample => rw [hphase] at h hfb; exact hfb.trans h
  | fill =>
    rw [hphase] at h hfb hset
    calc t.fb = fillFb s.lut s.sample s.scan zeroFb := by rw [hfb, h]
      _ = frameFb t.lut t.sample t.scan := (hset (by decide) (by decide)).symm
  | flush | wait => rw [hphase] at h hfb hset; exact (hfb.trans h).trans (hset (by decide) (by decide)).symm
  | clear => rw [hphase] at hfb; exact hfb
  | advance => rw [hphase] at h hfb; exact hfb.trans h

theorem fbOfFcPhase_of_fcHung {s t : State} (h : fbOfFcPhase s) (hhung : FcHung s t) : fbOfFcPhase t := by
  obtain ⟨-, -, -, -, hphase, hfb, hlut, -, hsample, hscan⟩ := hhung
  rwa [fbOfFcPhase, hphase, hfb, hlut, hsample, hscan]

/-- Settles O51: from `IDLE` the FC moves on or hangs, a hung CU has no step, and a reset starts a frame. -/
theorem frameInvariantKeptByEveryStep : Obligations.FrameInvariantKeptByEveryStep := by
  rintro s t ⟨hclient, hfaults, hfb, hrest⟩ hstep
  have hrest' : atRest t := atRest_of_step hrest hstep
  obtain ⟨-, rfl⟩ | ⟨hreset, hidle, -⟩ | ⟨-, hbusy, hadvance⟩ := step_cases hstep
  · refine ⟨by rwa [applyReset_client], applyReset_faults s, ?_, hrest'⟩
    simp [fbOfFcPhase]
  · obtain hmoved | hhung := fcMoved_or_fcHung_of_step ⟨hclient, hreset, hidle⟩ hstep
    · exact ⟨hmoved.ready.client, hmoved.faults.trans hfaults, fbOfFcPhase_of_fcMoved hfb hmoved, hrest'⟩
    · exact ⟨hhung.client, hhung.faults.trans hfaults, fbOfFcPhase_of_fcHung hfb hhung, hrest'⟩
  · rw [advance_hung (hrest.resolve_left hbusy)] at hadvance
    cases hadvance

theorem FcReady.of_frameStart {s : State} (h : frameStart s) : FcReady s := by
  obtain ⟨hclient, hreset, hidle, -⟩ := h
  exact ⟨hclient, hreset, hidle⟩

theorem fcInv_of_frameStart {s : State} (h : frameStart s) : FcInv s := by
  obtain ⟨hclient, -, hidle, hphase, -, hfb, hfaults⟩ := h
  exact ⟨hclient, hfaults, by rwa [fbOfFcPhase, hphase], .inl hidle⟩

theorem frameStart_reset : frameStart State.reset :=
  ⟨rfl, rfl, rfl, rfl, ⟨rfl, rfl⟩, rfl, rfl⟩

/-- Settles O55: the reset state starts a frame, and every frame starts in `FcInv`. -/
theorem resetSatisfiesTheInvariants : Obligations.ResetSatisfiesTheInvariants :=
  ⟨⟨⟨rfl, rfl⟩, trivial, ⟨rfl, rfl⟩, List.nodup_nil⟩, fcInv_of_frameStart frameStart_reset, frameStart_reset⟩

/-- Settles O52: DRAW's write stands first in what the step records, and FB is the frame's set by the invariant. -/
theorem flushSendsTheFramesSet : Obligations.FlushSendsTheFramesSet := by
  rintro s t ⟨hclient, -, hfb, -⟩ - hreset hidle hphase hstep
  rw [fbOfFcPhase, hphase, frameFb_eq_fillFb] at hfb
  refine ⟨?write, fun j => ?set⟩
  case write =>
    rw [step_command hclient hreset hidle (fcWord_flush hphase) rfl] at hstep
    cases hstep
    obtain ⟨es, htrace⟩ := drawRun_trace s
    obtain ⟨ph, sa, fp, cl, hdeliver⟩ := deliver_eq (drawRun s)
    exact ⟨es, by rw [runOf, hdeliver, htrace]⟩
  case set =>
    rw [hfb, lightBit_fillFb, lightBit_zeroFb]
    simp [burstSelected]

/-! ### Whole frames -/

theorem busy_of_hung {s : State} (h : hung s) : s.phase ≠ .idle := by
  intro hidle
  rw [hung, hidle] at h
  exact h

/-- A hung step is the last one of a run (R177). -/
theorem steps_of_fcHung {s t : State} (hhung : FcHung s t) (n : Nat) : steps (n + 1) t = .fault .busHang := by
  rw [steps, step_busy hhung.reset (busy_of_hung hhung.hung), advance_hung hhung.hung]

theorem fcMoved_of_idle {s t : State} (hready : FcReady s) (hstep : step s = .next t) (hidle : t.phase = .idle) :
    FcMoved s t :=
  (fcMoved_or_fcHung_of_step hready hstep).resolve_right fun hhung => busy_of_hung hhung.hung hidle

/-- In a run that goes on, each step of the FC has completed its phase. -/
theorem fcMoved_of_steps {s t : State} {n : Nat} (hready : FcReady s) (hsteps : steps (n + 2) s = .next t) :
    ∃ u, FcMoved s u ∧ steps (n + 1) u = .next t := by
  obtain ⟨u, hstep, hmoved | hhung⟩ := fcMoved_or_fcHung hready
  · exact ⟨u, hmoved, by rwa [steps_next _ hstep] at hsteps⟩
  · rw [steps_next _ hstep, steps_of_fcHung hhung] at hsteps
    cases hsteps

/-- A phase that uses no bus does not hang. -/
theorem fcMoved_offBus {s : State} (hready : FcReady s) (hphase : s.fcPhase ≠ .sample ∧ s.fcPhase ≠ .flush) :
    ∃ t, step s = .next t ∧ FcMoved s t := by
  obtain ⟨t, hstep, hmoved | hhung⟩ := fcMoved_or_fcHung hready
  · exact ⟨t, hstep, hmoved⟩
  · exact absurd hhung.bus (by simp [hphase])

theorem fcMoved_of_steps_one {s t : State} (hready : FcReady s) (hphase : s.fcPhase ≠ .sample ∧ s.fcPhase ≠ .flush)
    (hsteps : steps 1 s = .next t) : FcMoved s t := by
  obtain ⟨u, hstep, hmoved⟩ := fcMoved_offBus hready hphase
  rw [steps_next _ hstep] at hsteps
  cases hsteps
  exact hmoved

/-- FB after P_FILL, from the start of a frame (R158). -/
theorem fb_of_frameStart {s t : State} (hstart : frameStart s) (hsteps : steps 2 s = .next t) :
    t.fb = frameFb s.lut t.sample s.scan := by
  have hready := FcReady.of_frameStart hstart
  obtain ⟨-, -, -, hsample, -, hzero, -⟩ := hstart
  obtain ⟨u, hu, hsteps⟩ := fcMoved_of_steps (n := 0) hready hsteps
  have hfill : u.fcPhase = .fill := by rw [hu.fcPhase, hsample]; rfl
  have ht := fcMoved_of_steps_one hu.ready (by simp [hfill]) hsteps
  have hfb : u.fb = zeroFb := by rw [hu.fb, fbAfterPhase, hsample]; exact hzero
  have hscan : u.scan = s.scan := by rw [hu.scan, hsample]; rfl
  rw [ht.fb, fbAfterPhase, hfill, frameFb_eq_fillFb, ← ht.sample (by simp [hfill]), hu.lut, hfb, hscan]

/-- Settles O50: FB after P_FILL is the frame's set, which reads of the sample bit 0 only. -/
theorem branchDependsOnlyOnThisFramesBit : Obligations.BranchDependsOnlyOnThisFramesBit := by
  intro s s' t t' hstart hstart' hlut hscan hsteps hsteps' hbit
  have hburst : burstSelected t.sample = burstSelected t'.sample := hbit
  rw [fb_of_frameStart hstart hsteps, fb_of_frameStart hstart' hsteps', frameFb, frameFb, hlut, hscan, hburst]

/-- What every step keeps, a run of steps keeps. -/
theorem steps_keep {P : State → Prop} (hkeep : ∀ s t, P s → step s = .next t → P t) {n : Nat} {s t : State} (hs : P s)
    (hsteps : steps n s = .next t) : P t := by
  induction n generalizing s with
  | zero =>
    cases hsteps
    exact hs
  | succ n ih =>
    unfold steps at hsteps
    split at hsteps
    case h_1 u hstep => exact ih (hkeep s u hs hstep) hsteps
    case h_2 => cases hsteps
    case h_3 => cases hsteps

/-- A run of `m + n` steps passes the end of a run of `m`. -/
theorem exists_of_steps_add {m n : Nat} {s t : State} (hsteps : steps (m + n) s = .next t) :
    ∃ u, steps m s = .next u ∧ steps n u = .next t := by
  induction m generalizing s with
  | zero => exact ⟨s, steps_zero s, by rwa [Nat.zero_add] at hsteps⟩
  | succ m ih =>
    rw [Nat.succ_add, steps] at hsteps
    split at hsteps
    case h_1 v hstep =>
      obtain ⟨u, hu, hrest⟩ := ih hsteps
      exact ⟨u, by rw [steps_next _ hstep, hu], hrest⟩
    case h_2 => cases hsteps
    case h_3 => cases hsteps

/-- Six steps without a hang are one frame (R150, R156). -/
theorem frame_of_steps {s t : State} (hstart : frameStart s) (hsteps : steps 6 s = .next t) :
    frameStart t ∧ t.scan = scanNext s.scan := by
  obtain ⟨-, hfaults, hfb, -⟩ : FcInv t := steps_keep frameInvariantKeptByEveryStep (fcInv_of_frameStart hstart) hsteps
  have hready := FcReady.of_frameStart hstart
  obtain ⟨-, -, -, hphase, hlatches, -⟩ := hstart
  obtain ⟨s1, h1, hsteps⟩ := fcMoved_of_steps hready hsteps
  obtain ⟨s2, h2, hsteps⟩ := fcMoved_of_steps h1.ready hsteps
  obtain ⟨s3, h3, hsteps⟩ := fcMoved_of_steps h2.ready hsteps
  obtain ⟨s4, h4, hsteps⟩ := fcMoved_of_steps h3.ready hsteps
  obtain ⟨s5, h5, hsteps⟩ := fcMoved_of_steps h4.ready hsteps
  have hp1 : s1.fcPhase = .fill := by rw [h1.fcPhase, hphase]; rfl
  have hp2 : s2.fcPhase = .flush := by rw [h2.fcPhase, hp1]; rfl
  have hp3 : s3.fcPhase = .wait := by rw [h3.fcPhase, hp2]; rfl
  have hp4 : s4.fcPhase = .clear := by rw [h4.fcPhase, hp3]; rfl
  have hp5 : s5.fcPhase = .advance := by rw [h5.fcPhase, hp4]; rfl
  have h6 : FcMoved s5 t := fcMoved_of_steps_one h5.ready (by simp [hp5]) hsteps
  have hp6 : t.fcPhase = .sample := by rw [h6.fcPhase, hp5]; rfl
  have hscan : t.scan = scanNext s.scan := by
    simp [h6.scan, h5.scan, h4.scan, h3.scan, h2.scan, h1.scan, hp5, hp4, hp3, hp2, hp1, hphase]
  have hlatches' : latchesIdle t := h6.latches (h5.latches (h4.latches (h3.latches (h2.latches (h1.latches hlatches)))))
  rw [fbOfFcPhase, hp6] at hfb
  exact ⟨⟨h6.ready.client, h6.ready.reset, h6.ready.idle, hp6, hlatches', hfb, hfaults⟩, hscan⟩

theorem frames_of_steps {n : Nat} {s t : State} (hstart : frameStart s) (hsteps : steps (6 * n) s = .next t) :
    frameStart t ∧ t.scan.val = (s.scan.val + n) % 61 := by
  induction n generalizing s with
  | zero =>
    cases hsteps
    exact ⟨hstart, (Nat.mod_eq_of_lt (Fin.isLt _)).symm⟩
  | succ n ih =>
    rw [Nat.mul_succ, Nat.add_comm] at hsteps
    obtain ⟨u, hframe, hrest⟩ := exists_of_steps_add hsteps
    obtain ⟨hu, hscan⟩ := frame_of_steps hstart hframe
    obtain ⟨ht, hscan'⟩ := ih hu hrest
    have hnext : u.scan.val = (s.scan.val + 1) % 61 := by rw [hscan]; rfl
    exact ⟨ht, by omega⟩

/-- Settles O53: by induction on the frames; 61 of them are a whole turn. -/
theorem scanIndexHasPeriod61 : Obligations.ScanIndexHasPeriod61 := by
  intro n s t hstart hsteps
  obtain ⟨ht, hscan⟩ := frames_of_steps hstart hsteps
  refine ⟨ht, hscan, fun hn => Fin.ext ?_⟩
  have hlt := Fin.isLt s.scan
  omega

/-- P_SAMPLE answered, and P_FILL after it: the frame's set is in FB, and the bus is as P_SAMPLE left it (R151, R152). -/
theorem flush_of_answered {s : State} {received : Option Byte} (hstart : frameStart s)
    (hrun : rdbtnRun s = xferAnswered received (issueXfer (armButton s))) :
    ∃ t, steps 2 s = .next t ∧ FcReady t ∧ latchesIdle t ∧ t.fcPhase = .flush ∧ t.sample = buttonByte received ∧
      t.lut = s.lut ∧ t.fb = frameFb s.lut t.sample s.scan ∧ t.env = afterXfer s.env := by
  have ⟨hclient, hreset, hidle, hphase, hlatches, _⟩ := hstart
  obtain ⟨u, hstep, husample, huenv, huidle⟩ :
      ∃ u, step s = .next u ∧ u.sample = buttonByte received ∧ u.env = afterXfer s.env ∧ u.phase = .idle :=
    ⟨_, step_sample_answered hclient hreset hidle hphase hlatches.2 hrun, rfl, rfl, hidle⟩
  have hu : FcMoved s u := fcMoved_of_idle (.of_frameStart hstart) hstep huidle
  have hfill : u.fcPhase = .fill := by rw [hu.fcPhase, hphase]; rfl
  have hoff : u.fcPhase ≠ .sample ∧ u.fcPhase ≠ .flush := by simp [hfill]
  obtain ⟨t, hstep', ht⟩ := fcMoved_offBus hu.ready hoff
  have htwo : steps 2 s = .next t := by rw [steps_next 1 hstep, steps_next 0 hstep', steps_zero]
  exact ⟨t, htwo, ht.ready, ht.latches (hu.latches hlatches), by rw [ht.fcPhase, hfill]; rfl,
    by rw [ht.sample hoff.1, husample], by rw [ht.lut, hu.lut], fb_of_frameStart hstart htwo,
    by rw [(ht.offBus hoff).1, huenv]⟩

/-- P_FLUSH answered, and the three phases after it: what P_FLUSH shows stays (R153 to R156). -/
theorem shown_of_answered {s : State} {a : WriteAnswer} (hready : FcReady s) (hlatches : latchesIdle s)
    (hphase : s.fcPhase = .flush) (ha : writeAnswerOf s.env = a) (hanswered : a ≠ .never) :
    ∃ t, steps 4 s = .next t ∧ t.sample = s.sample ∧ t.lut = s.lut ∧ (a = .ok → t.ledOut = s.fb) := by
  have ⟨hclient, hreset, hidle⟩ := hready
  obtain ⟨s1, h1, hshown, hidle1⟩ : ∃ u, step s = .next u ∧ (a = .ok → u.ledOut = s.fb) ∧ u.phase = .idle :=
    ⟨_, step_flush_answered hclient hreset hidle hphase hlatches.1 ha hanswered, fun hok => if_pos hok, hidle⟩
  have m1 : FcMoved s s1 := fcMoved_of_idle hready h1 hidle1
  have hwait : s1.fcPhase = .wait := by rw [m1.fcPhase, hphase]; rfl
  obtain ⟨s2, h2, m2⟩ := fcMoved_offBus m1.ready (by simp [hwait])
  have hclear : s2.fcPhase = .clear := by rw [m2.fcPhase, hwait]; rfl
  obtain ⟨s3, h3, m3⟩ := fcMoved_offBus m2.ready (by simp [hclear])
  have hadvance : s3.fcPhase = .advance := by rw [m3.fcPhase, hclear]; rfl
  obtain ⟨s4, h4, m4⟩ := fcMoved_offBus m3.ready (by simp [hadvance])
  have hfour : steps 4 s = .next s4 := by
    rw [steps_next 3 h1, steps_next 2 h2, steps_next 1 h3, steps_next 0 h4, steps_zero]
  have hsample : s4.sample = s.sample := by
    rw [m4.sample (by simp [hadvance]), m3.sample (by simp [hclear]), m2.sample (by simp [hwait]), m1.sample (by simp [hphase])]
  have hlut : s4.lut = s.lut := by rw [m4.lut, m3.lut, m2.lut, m1.lut]
  have hledOut : s4.ledOut = s1.ledOut := by
    rw [(m4.offBus (by simp [hadvance])).2, (m3.offBus (by simp [hclear])).2,
      (m2.offBus (by simp [hwait])).2]
  exact ⟨s4, hfour, hsample, hlut, fun hok => hledOut.trans (hshown hok)⟩

/-- Settles O54: two steps up to P_FLUSH and four from there, which end at the start of the next frame as in O53. -/
theorem answeredFrameCompletesInSixSteps : Obligations.AnsweredFrameCompletesInSixSteps := by
  intro s x a v hstart hx hxfer ha hwrite hv
  obtain ⟨received, hrun, hreceived⟩ := rdbtnRun_answered hx hxfer
  have hbyte : buttonByte received = v := by
    obtain ⟨y, rfl, rfl⟩ | ⟨rfl, rfl⟩ := hreceived
    · obtain hy | ⟨hfail, -⟩ := hv
      · exact XferAnswer.ok.inj hy
      · cases hfail
    · obtain hok | ⟨-, rfl⟩ := hv
      · cases hok
      · rfl
  obtain ⟨u, htwo, hready, hlatches, hphase, hsample, hlut, hfb, henv⟩ := flush_of_answered hstart hrun
  obtain ⟨t, hfour, hsample', hlut', hshown⟩ := shown_of_answered hready hlatches hphase (henv ▸ ha) hwrite
  have hsix : steps 6 s = .next t := by rw [steps_add 2 4 htwo, hfour]
  obtain ⟨hend, hscan⟩ := frame_of_steps hstart hsix
  have hv : u.sample = v := hsample.trans hbyte
  rw [hv] at hfb hsample'
  exact ⟨t, hsix, hend, hscan, hsample', hlut'.trans hlut, fun hok => (hshown hok).trans hfb⟩

end Sys2Proof.Machine
end

section
/-! PROOFS. FB over whole lists of commands (R102, R206) and over a command performed twice (R63). -/

namespace Sys2Proof.Machine

/-! ### The address translator -/

theorem lightOf_bankOf_bitOf (i : LightIdx) : lightOf (bankOf i) (bitOf i) = i :=
  address_inj.mp ⟨bankOf_lightOf _ _, bitOf_lightOf _ _⟩

/-- Settles O2: `lightOf` is the inverse on both sides. -/
theorem translatorIsBijection : Obligations.TranslatorIsBijection :=
  ⟨lightOf_bankOf_bitOf, fun b k => ⟨bankOf_lightOf b k, bitOf_lightOf b k, rfl⟩, ⟨rfl, rfl⟩, ⟨rfl, rfl⟩, rfl, rfl⟩

/-! ### What one command writes to FB -/

theorem lights_prox {c : LightIdx} (hc : c.val < 61) (lut : Lut) (j : LightIdx) :
    lights lut j (.prox c) = true ↔ ∃ hj : j.val < 61, near lut ⟨c.val, hc⟩ ⟨j.val, hj⟩ = true := by
  by_cases hj : j.val < 61
  · simp [lights, lutIndex_lt hc, lutIndex_lt hj, hj]
  · simp [lights, lutIndex_lt hc, lutIndex_ge hj, hj]

/-- A burst lights what its command lights, over what FB held (R138). -/
theorem lightBit_burst_eq_lights {c : LightIdx} (hc : c.val < 61) (lut : Lut) (fb : Fb) (j : LightIdx) :
    lightBit (burst lut ⟨c.val, hc⟩ fb) j = (lightBit fb j || lights lut j (.prox c)) := by
  rw [Bool.eq_iff_iff, Bool.or_eq_true, lightBit_burst, lights_prox hc]

theorem finishDraw_fb (snap : Fb) (w : Bool) (s : State) : (finishDraw snap w s).fb = s.fb := by
  cases w <;> rfl

theorem drawRun_fb (s : State) : (drawRun s).fb = s.fb := by
  cases ha : writeAnswerOf s.env with
  | ok => rw [drawRun_ok ha, finishDraw_fb]; rfl
  | fail => rw [drawRun_fail ha, finishDraw_fb]; rfl
  | never => rw [drawRun_never ha]; rfl

theorem rdbtnRun_fb (s : State) : (rdbtnRun s).fb = s.fb := by
  cases ha : xferAnswerOf s.env with
  | ok x => rw [rdbtnRun_ok ha]; rfl
  | fail => rw [rdbtnRun_fail ha]; rfl
  | never => rw [rdbtnRun_never ha]; rfl

/-- Every command but CLR leaves the lights that are on (R22). -/
theorem lightBit_runOf {i : Instr} (hi : i ≠ .clr) {s : State} {j : LightIdx} (hon : lightBit s.fb j = true) :
    lightBit (runOf i s).fb j = true := by
  cases i with
  | setl l => simp [runOf, lightBit_setLight, hon]
  | clr => exact absurd rfl hi
  | draw => rwa [runOf, drawRun_fb]
  | rdbtn => rwa [runOf, rdbtnRun_fb]
  | prox c =>
    by_cases hc : c.val < 61
    · rw [runOf_prox_lt hc, proxRun_fb, lightBit_burst_eq_lights, hon, Bool.true_or]
    · rw [runOf_prox_ge hc]; exact hon

/-- Settles O7: a command's run keeps the lights that are on, and a bus command's run keeps FB. -/
theorem onlyClrClearsFramebufferBits : Obligations.OnlyClrClearsFramebufferBits := by
  intro i s t hexec
  obtain ⟨-, rfl⟩ := exec_next.mp hexec
  refine ⟨fun hi j => lightBit_runOf hi, ?bus⟩
  rintro (rfl | rfl)
  · exact drawRun_fb s
  · exact rdbtnRun_fb s

/-! ### Lists of SETL and PROX -/

/-- A legal SETL or PROX, in the words of R102's statement. -/
def IsLighting (i : Instr) : Prop := i.wf = true ∧ i ≠ .clr ∧ i ≠ .draw ∧ i ≠ .rdbtn

theorem exec_lighting {i : Instr} {s : State} (hidle : s.phase = .idle) (hi : IsLighting i) :
    ∃ t fb, exec i s = .next t ∧ endCommand t = { s with fb := fb } ∧
      ∀ j, lightBit fb j = (lightBit s.fb j || lights s.lut j i) := by
  obtain ⟨hwf, hclr, hdraw, hrdbtn⟩ := hi
  cases i with
  | setl l =>
    refine ⟨_, _, exec_setl hidle l, endCommand_setlRun hidle l, fun j => ?_⟩
    rw [lightBit_setLight, Bool.or_comm, lights]
  | prox c =>
    have hc : c.val < 61 := of_decide_eq_true hwf
    exact ⟨_, _, exec_prox hidle hc, endCommand_proxRun hidle _, lightBit_burst_eq_lights hc s.lut s.fb⟩
  | clr => exact absurd rfl hclr
  | draw => exact absurd rfl hdraw
  | rdbtn => exact absurd rfl hrdbtn

/-- A list of lighting commands writes FB only, each light being the OR of what the commands light (R102). -/
theorem execAll_lighting {l : List Instr} {s : State} (hidle : s.phase = .idle) (hl : ∀ i ∈ l, IsLighting i) :
    ∃ fb, execAll l s = .next { s with fb := fb } ∧ ∀ j, lightBit fb j = (lightBit s.fb j || l.any (lights s.lut j)) := by
  induction l generalizing s with
  | nil => exact ⟨s.fb, execAll_nil s, fun j => (Bool.or_false _).symm⟩
  | cons i is ih =>
    obtain ⟨hi, his⟩ := List.forall_mem_cons.mp hl
    obtain ⟨t, fb, hexec, hended, hfb⟩ := exec_lighting hidle hi
    obtain ⟨fb', hrest, hfb'⟩ := ih (s := { s with fb := fb }) hidle his
    refine ⟨fb', by rw [execAll_cons hexec, hended, hrest], fun j => ?_⟩
    calc lightBit fb' j = (lightBit fb j || is.any (lights s.lut j)) := hfb' j
      _ = (lightBit s.fb j || (i :: is).any (lights s.lut j)) := by rw [hfb, List.any_cons, Bool.or_assoc]

/-- Settles O6: what a list lights is the OR over its members, and that is the same for a permutation. -/
theorem framebufferIsOrOfLightsInAnyOrder : Obligations.FramebufferIsOrOfLightsInAnyOrder := by
  intro l l' s hidle hperm hl
  obtain ⟨fb, hrun, hfb⟩ := execAll_lighting hidle hl
  obtain ⟨fb', hrun', hfb'⟩ := execAll_lighting hidle fun i hi => hl i (hperm.mem_iff.mpr hi)
  have hsame : fb = fb' := fb_ext_light fun j => by rw [hfb, hfb', hperm.any_eq]
  exact ⟨_, _, hrun, hrun', hsame, hfb⟩

theorem drawRun_ledOut_ok {s : State} (hled : s.ledLat = .high) (ha : writeAnswerOf s.env = .ok) :
    (drawRun s).ledOut = s.fb := by
  rw [drawRun_ok ha, finishDraw_eq hled]
  rfl

/-- Settles O10: after CLR the list lights over a dark FB, and DRAW shows what is then in FB. -/
theorem drawShowsWhatWasBuiltSinceClr : Obligations.DrawShowsWhatWasBuiltSinceClr := by
  intro l s hidle ⟨hled, _⟩ ha hl
  obtain ⟨fb, hrun, hfb⟩ := execAll_lighting (s := { s with fb := zeroFb }) hidle hl
  have hbuilt : execAll (.clr :: l) s = .next { s with fb := fb } := by
    rw [execAll_cons (exec_clr hidle), endCommand_clrRun hidle, hrun]
  have hdraw : exec .draw { s with fb := fb } = .next (drawRun { s with fb := fb }) := exec_draw hidle
  refine ⟨_, by rw [execAll_append hbuilt, execAll_cons hdraw, execAll_nil], fun j => ?_⟩
  have hshown : (drawRun { s with fb := fb }).ledOut = fb := drawRun_ledOut_ok (s := { s with fb := fb }) hled ha
  rw [endCommand_ledOut, hshown, hfb, lightBit_zeroFb, Bool.false_or]

/-! ### A command performed twice -/

theorem setLight_setLight (fb : Fb) (i : LightIdx) : setLight (setLight fb i) i = setLight fb i :=
  setLight_of_lightBit (lightBit_setLight_self fb i)

theorem burst_burst (lut : Lut) (c : LutIdx) (fb : Fb) : burst lut c (burst lut c fb) = burst lut c fb := by
  refine fb_ext_light fun j => ?_
  rw [Bool.eq_iff_iff, lightBit_burst, lightBit_burst, or_assoc, or_self]

/-- The second record of a fault finds it recorded (R175). -/
theorem recordFault_recordFault (f : IllegalCommand) (s : State) :
    recordFault f (recordFault f s) = recordFault f s := by
  have hfaults : (recordFault f (recordFault f s)).faults = (recordFault f s).faults := by
    rw [recordFault_faults (recordFault f s), if_pos (mem_recordFault f s)]
  exact congrArg (fun faults => { s with faults := faults }) hfaults

/-- A run that is a response over an idempotent write ends in the same state when it is performed again. -/
theorem respond_again {run write : State → State} {r : CmdWord} {s : State} (hrun : ∀ s, run s = respond r (write s))
    (hidle : (write s).phase = .idle) (hwrite : write (write s) = write s) :
    (endCommand (run s)).phase = .idle ∧ run (endCommand (run s)) = run s := by
  have hended : endCommand (run s) = write s := by rw [hrun, endCommand_respond hidle]
  rw [hended]
  exact ⟨hidle, by rw [hrun (write s), hwrite, hrun s]⟩

/-- What SETL, CLR and PROX write is idempotent: the lights of FB, or the fault of a centre with no LUT entry. -/
theorem runOf_again {i : Instr} (hdraw : i ≠ .draw) (hrdbtn : i ≠ .rdbtn) {s : State} (hidle : s.phase = .idle) :
    (endCommand (runOf i s)).phase = .idle ∧ runOf i (endCommand (runOf i s)) = runOf i s := by
  cases i with
  | setl l =>
    exact respond_again (write := fun s => { s with fb := setLight s.fb l }) (fun _ => rfl) hidle
      (by simp only [setLight_setLight])
  | clr => exact respond_again (write := fun s => { s with fb := zeroFb }) (fun _ => rfl) hidle rfl
  | draw => exact absurd rfl hdraw
  | rdbtn => exact absurd rfl hrdbtn
  | prox c =>
    by_cases hc : c.val < 61
    · rw [runOf_prox_lt hc]
      exact respond_again (write := fun s => { s with fb := burst s.lut ⟨c.val, hc⟩ s.fb }) (fun _ => rfl) hidle
        (by simp only [burst_burst])
    · rw [runOf_prox_ge hc]
      exact respond_again (write := recordFault ⟨encode (.prox c), .noLutEntry⟩) (fun _ => rfl) hidle
        (recordFault_recordFault _ s)

/-- Settles O9: the second run starts where the first one's response was taken. -/
theorem framebufferCommandsAreIdempotent : Obligations.FramebufferCommandsAreIdempotent := by
  intro i s t hdraw hrdbtn hexec
  obtain ⟨hidle, rfl⟩ := exec_next.mp hexec
  obtain ⟨hidle', hagain⟩ := runOf_again hdraw hrdbtn hidle
  exact exec_next.mpr ⟨hidle', hagain.symm⟩

end Sys2Proof.Machine
end

section
/-! PROOFS. The traces of DRAW and RDBTN (R117) and their hang (R119). -/

namespace Sys2Proof.Machine

theorem issueWrite_of_exec_never {s t : State} (hexec : exec .draw s = .next t) (ha : writeAnswerOf s.env = .never) :
    t = issueWrite s := by
  rw [(exec_next.mp hexec).2, runOf, drawRun_never ha]

theorem issueXfer_of_exec_never {s t : State} (hexec : exec .rdbtn s = .next t) (ha : xferAnswerOf s.env = .never) :
    t = issueXfer (armButton s) := by
  rw [(exec_next.mp hexec).2, runOf, rdbtnRun_never ha]

/-- Settles O14: one trace for each answer of the bus. -/
theorem onlyTheTracesOfTheTable : Obligations.OnlyTheTracesOfTheTable := by
  intro s t ⟨hled, hbtn⟩
  refine ⟨fun hexec => ?draw, fun hexec => ?rdbtn⟩
  case draw =>
    obtain ⟨-, rfl⟩ := exec_next.mp hexec
    rw [runOf]
    cases ha : writeAnswerOf s.env with
    | ok => exact .inl (by rw [drawRun_ok ha, finishDraw_eq hled]; exact ⟨rfl, rfl⟩)
    | fail => exact .inr (.inl (by rw [drawRun_fail ha, finishDraw_eq hled]; exact ⟨rfl, rfl⟩))
    | never => exact .inr (.inr (by rw [drawRun_never ha]; exact ⟨rfl, rfl, hled, hbtn⟩))
  case rdbtn =>
    obtain ⟨-, rfl⟩ := exec_next.mp hexec
    rw [runOf]
    cases ha : xferAnswerOf s.env with
    | ok x => exact .inl ⟨x, by rw [rdbtnRun_ok ha, xferAnswered_eq hbtn]; exact ⟨rfl, rfl⟩⟩
    | fail => exact .inr (.inl (by rw [rdbtnRun_fail ha, xferAnswered_eq hbtn]; exact ⟨rfl, rfl⟩))
    | never => exact .inr (.inr (by rw [rdbtnRun_never ha, issueXfer_armButton_eq hbtn]; exact ⟨rfl, rfl, rfl, hled⟩))

/-- What a hung CU can do: hold off commands, have no step and no event, and be reset without a response (R119, R201). -/
theorem hung_until_reset {t : State} (hreset : t.resetPin = false) (hhung : hung t) :
    (∀ j, exec j t = .fault .heldOff) ∧ step t = .fault .busHang ∧ tick t = .fault .busHang ∧
      ∃ u, step { t with resetPin := true } = .next u ∧ u.phase = .idle ∧ latchesIdle u ∧ rspPort u = none ∧
        u.client = t.client := by
  have hbusy := busy_of_hung hhung
  refine ⟨exec_busy hbusy, ?_, ?_, applyReset { t with resetPin := true }, step_reset rfl, applyReset_phase _,
    ⟨applyReset_ledLat _, applyReset_btnLat _⟩, rspPort_applyReset _, applyReset_client _⟩
  · rw [step_busy hreset hbusy, advance_hung hhung]
  · rw [tick_busy hreset hbusy, advance_hung hhung]

/-- Settles O16: the command's run ends where its transaction was issued, and that state is hung. -/
theorem hangEndsOnlyByReset : Obligations.HangEndsOnlyByReset := by
  intro s hidle ⟨hled, hbtn⟩ hreset i t hexec
  rintro (⟨rfl, ha⟩ | ⟨rfl, ha⟩)
  · obtain rfl := issueWrite_of_exec_never hexec ha
    exact ⟨.inl ⟨rfl, rfl, hbtn⟩, hled, rfl, rfl, hung_until_reset hreset ha⟩
  · obtain rfl := issueXfer_of_exec_never hexec ha
    exact ⟨.inr ⟨rfl, rfl, rfl⟩, hled, rfl, rfl, hung_until_reset hreset ha⟩

end Sys2Proof.Machine
end

section
/-! PROOFS. The proximity engine's arithmetic (R131, R136, R137) and its set (R140 to R142). -/

namespace Sys2Proof.Machine

/-! ### The source's entries -/

theorem sourceEntries_geometryTable : sourceEntries geometryTable := ⟨rfl, rfl⟩

/-- The entries at their LUT indices. -/
theorem getElem_of_sourceEntries {lut : Lut} (h : sourceEntries lut) :
    lut[(0 : LutIdx)] = sourceEntry0 ∧ lut[(1 : LutIdx)] = sourceEntry1 := h

theorem normSq_zero {lut : Lut} (h : sourceEntries lut) : normSq lut 0 = 100002865 := by
  rw [normSq, (getElem_of_sourceEntries h).1]
  decide

theorem normSq_one {lut : Lut} (h : sourceEntries lut) : normSq lut 1 = 75433210 := by
  rw [normSq, (getElem_of_sourceEntries h).2]
  decide

theorem dot_zero_one {lut : Lut} (h : sourceEntries lut) : dot lut 0 1 = 81575243 := by
  obtain ⟨h0, h1⟩ := getElem_of_sourceEntries h
  rw [dot, h0, h1]
  decide

/-- Settles O18: the reset state holds the build's table. -/
theorem sourceEntriesAndNorms : Obligations.SourceEntriesAndNorms := by
  refine ⟨⟨?_, ?_, ?_⟩, ⟨?_, ?_, ?_⟩, normSq_zero sourceEntries_geometryTable, normSq_one sourceEntries_geometryTable⟩
  all_goals rfl

/-! ### The dot-product form (R137) -/

theorem d2_eq_d2Dot (lut : Lut) (a b : LutIdx) : (d2 lut a b : Int) = d2Dot lut a b := by
  rw [d2_cast, d2Dot, normSq, normSq, dot]
  ring

/-- The square of an int16 component is at most 2^30, reached at -32768. -/
theorem component_mul_self_le (n : BitVec 16) : n.toInt * n.toInt ≤ 1073741824 := by
  obtain ⟨hlow, hhigh⟩ := component_bounds n
  nlinarith

theorem normSq_nonneg (lut : Lut) (a : LutIdx) : 0 ≤ normSq lut a := by
  unfold normSq
  exact add_nonneg (add_nonneg (mul_self_nonneg _) (mul_self_nonneg _)) (mul_self_nonneg _)

theorem normSq_le (lut : Lut) (a : LutIdx) : normSq lut a ≤ 3221225472 := by
  have hx := component_mul_self_le lut[a].x
  have hy := component_mul_self_le lut[a].y
  have hz := component_mul_self_le lut[a].z
  unfold normSq
  omega

/-- With both norms 1 (10^8 in the model's units), `d2 = 2 * 10^8 - 2 * D`, and the radius is at D = 92 000 000. -/
theorem reducedTest_eq_near {lut : Lut} {a b : LutIdx} (ha : normSq lut a = 100000000) (hb : normSq lut b = 100000000) :
    reducedTest lut a b = near lut a b := by
  have hd2 := d2_eq_d2Dot lut a b
  rw [d2Dot, ha, hb] at hd2
  rw [Bool.eq_iff_iff, near_iff, reducedTest, decide_eq_true_iff]
  omega

theorem d2_zero_one {lut : Lut} (h : sourceEntries lut) : d2 lut 0 1 = 12285589 := by
  have hd2 := d2_eq_d2Dot lut 0 1
  rw [d2Dot, normSq_zero h, normSq_one h, dot_zero_one h] at hd2
  omega

theorem near_zero_one {lut : Lut} (h : sourceEntries lut) : near lut 0 1 = true :=
  near_iff.mpr (by rw [d2_zero_one h]; decide)

/-- Settles O21: the dot-product form expands `d2`, and the source's pair has D below the reduced test's bound. -/
theorem dotProductFormIsExact : Obligations.DotProductFormIsExact := by
  intro lut a b
  refine ⟨d2_eq_d2Dot lut a b, normSq_nonneg lut a, normSq_le lut a, reducedTest_eq_near, fun h => ?source⟩
  exact ⟨dot_zero_one h, d2_zero_one h, near_zero_one h, by rw [reducedTest, dot_zero_one h]; decide⟩

/-! ### The 34-bit accumulator (R136) -/

theorem component_sub_natAbs_le (p q : BitVec 16) : (p.toInt - q.toInt).natAbs ≤ 65535 := by
  have := component_bounds p
  have := component_bounds q
  omega

/-- Seventeen signed bits hold every difference of two int16 components. -/
theorem toInt_diff17 (p q : BitVec 16) : (diff17 p q).toInt = p.toInt - q.toInt := by
  have hp := component_bounds p
  have hq := component_bounds q
  rw [diff17, BitVec.toInt_sub, BitVec.toInt_signExtend_of_le (by decide), BitVec.toInt_signExtend_of_le (by decide)]
  exact Int.bmod_eq_of_le (by omega) (by omega)

theorem square34_diff17 (p q : BitVec 16) : square34 (diff17 p q) = BitVec.ofInt 34 ((p.toInt - q.toInt) ^ 2) := by
  rw [square34, BitVec.signExtend, ← BitVec.ofInt_mul, toInt_diff17, pow_two]

/-- The accumulator holds the exact sum, reduced to 34 bits. -/
theorem d2Acc_eq_ofNat (lut : Lut) (a b : LutIdx) : d2Acc lut a b = BitVec.ofNat 34 (d2 lut a b) := by
  rw [← BitVec.ofInt_natCast, d2_cast, BitVec.ofInt_add, BitVec.ofInt_add, d2Acc, square34_diff17, square34_diff17,
    square34_diff17]

theorem sq_le_of_natAbs_le {n : Int} {m : Nat} (h : n.natAbs ≤ m) : n ^ 2 ≤ (m : Int) ^ 2 :=
  sq_le_sq.mpr (by rw [Int.abs_eq_natAbs, Nat.abs_cast]; exact_mod_cast h)

/-- Three differences within `m` give a squared distance within `3 * m^2`. -/
theorem d2_le_of_natAbs_le {lut : Lut} {a b : LutIdx} {m : Nat} (hx : (lut[a].x.toInt - lut[b].x.toInt).natAbs ≤ m)
    (hy : (lut[a].y.toInt - lut[b].y.toInt).natAbs ≤ m) (hz : (lut[a].z.toInt - lut[b].z.toInt).natAbs ≤ m) :
    d2 lut a b ≤ 3 * m ^ 2 := by
  have hsum : (d2 lut a b : Int) ≤ 3 * (m : Int) ^ 2 := by
    rw [d2_cast]
    linarith [sq_le_of_natAbs_le hx, sq_le_of_natAbs_le hy, sq_le_of_natAbs_le hz]
  exact_mod_cast hsum

theorem d2_le (lut : Lut) (a b : LutIdx) : d2 lut a b ≤ 12884508675 :=
  d2_le_of_natAbs_le (m := 65535) (component_sub_natAbs_le _ _) (component_sub_natAbs_le _ _) (component_sub_natAbs_le _ _)

theorem toNat_d2Acc (lut : Lut) (a b : LutIdx) : (d2Acc lut a b).toNat = d2 lut a b := by
  have hd2 := d2_le lut a b
  rw [d2Acc_eq_ofNat, BitVec.toNat_ofNat]
  exact Nat.mod_eq_of_lt (by omega)

theorem nearAcc_eq_near (lut : Lut) (a b : LutIdx) : nearAcc lut a b = near lut a b := by
  rw [Bool.eq_iff_iff, near_iff, nearAcc, decide_eq_true_iff, BitVec.lt_def, toNat_d2Acc]
  rfl

/-- Settles O20: the differences fit 17 bits, so the accumulator is the exact sum modulo 2^34, which the bound makes exact. -/
theorem accumulatorNeverOverflows : Obligations.AccumulatorNeverOverflows := by
  intro lut a b
  refine ⟨component_sub_natAbs_le _ _, component_sub_natAbs_le _ _, component_sub_natAbs_le _ _, d2_le lut a b,
    toNat_d2Acc lut a b, nearAcc_eq_near lut a b, fun hunit => ?unit⟩
  obtain ⟨hax, hay, haz⟩ := hunit a
  obtain ⟨hbx, hby, hbz⟩ := hunit b
  exact d2_le_of_natAbs_le (m := 20000) (by omega) (by omega) (by omega)

/-! ### The set a burst lights (R140 to R142) -/

theorem d2_comm (lut : Lut) (a b : LutIdx) : d2 lut a b = d2 lut b a := by
  have hcast : (d2 lut a b : Int) = d2 lut b a := by
    rw [d2_cast, d2_cast]
    ring
  exact_mod_cast hcast

theorem near_comm (lut : Lut) (a b : LutIdx) : near lut a b = near lut b a := by
  rw [near, near, d2_comm]

theorem near_self (lut : Lut) (c : LutIdx) : near lut c c = true := near_iff.mpr (by simp)

theorem lightBit_burst_zeroFb (lut : Lut) (c k : LutIdx) : lightBit (burst lut c zeroFb) (lightOfEntry k) = near lut c k := by
  rw [Bool.eq_iff_iff, lightBit_burst, lightBit_zeroFb]
  simp [lightOfEntry]

/-- An index without a LUT entry stays dark (R140). -/
theorem lightBit_burst_zeroFb_ge (lut : Lut) (c : LutIdx) {j : LightIdx} (hj : ¬ j.val < 61) :
    lightBit (burst lut c zeroFb) j = false := by
  rw [← Bool.not_eq_true, lightBit_burst, lightBit_zeroFb]
  simp [hj]

/-- The source's two entries are near each other, so either one's burst lights both (R142). -/
theorem near_of_sourceEntries {lut : Lut} (h : sourceEntries lut) {c : LutIdx} (hc : c = 0 ∨ c = 1) :
    near lut c 0 = true ∧ near lut c 1 = true := by
  obtain rfl | rfl := hc
  · exact ⟨near_self lut 0, near_zero_one h⟩
  · exact ⟨(near_comm lut 1 0).trans (near_zero_one h), near_self lut 1⟩

/-- Settles O24: from FB zero a light below 61 is on when its entry is near, and the others stay dark. -/
theorem burstFromZeroIsTheNearSet : Obligations.BurstFromZeroIsTheNearSet := by
  intro c s hidle hzero
  refine ⟨fun a b => ⟨d2_comm _ a b, near_comm _ a b⟩, proxRun c s, exec_prox hidle c.isLt, ?_⟩
  rw [proxRun_fb, hzero]
  refine ⟨lightBit_burst_zeroFb s.lut c, lightBit_burst_zeroFb_ge s.lut c (by decide),
    lightBit_burst_zeroFb_ge s.lut c (by decide), lightBit_burst_zeroFb_ge s.lut c (by decide), fun h hc => ?source⟩
  obtain ⟨h0, h1⟩ := near_of_sourceEntries h hc
  exact ⟨(lightBit_burst_zeroFb s.lut c 0).trans h0, (lightBit_burst_zeroFb s.lut c 1).trans h1⟩

/-- Settles O25: a scan lights the near entries among its list, whatever their order. -/
theorem scanOrderIsFree : Obligations.ScanOrderIsFree := by
  intro lut c fb ks hperm
  refine fb_ext_light fun j => ?_
  rw [Bool.eq_iff_iff, burst, lightBit_scanEntries, lightBit_scanEntries]
  simp only [hperm.mem_iff]

end Sys2Proof.Machine
end

section
/-! PROOFS. A reset of any state (R201 to R203): what it aborts, and when it ends. -/

namespace Sys2Proof.Machine

theorem ledEdge_to_high (l : Level) : ledEdge l .high = if l = .low then [.ledRise] else [] := by
  cases l <;> rfl

theorem btnEdge_to_high (l : Level) : btnEdge l .high = if l = .low then [.btnRise] else [] := by
  cases l <;> rfl

/-- Settles O40: in reset an event is `applyReset`, field by field. -/
theorem resetAbortsAnyCommand : Obligations.ResetAbortsAnyCommand := by
  intro s t hreset htick
  rw [tick_reset hreset] at htick
  cases htick
  refine ⟨applyReset_phase s, rspPort_applyReset s, fun ws rs hclient => ⟨ws, ?client⟩, ?edges, fun hhigh => ?ledOut,
    applyReset_lut s⟩
  case client => rw [applyReset_client, hclient]
  case edges => rw [applyReset_trace, ledEdge_to_high, btnEdge_to_high]
  case ledOut => rw [applyReset_ledOut, hhigh]; rfl

theorem platformActOf_resetValues {s : State} {act : PlatformAct} {acts : List PlatformAct}
    (hboots : s.env.boots = act :: acts) : platformActOf (resetValues s).env = act := by
  rw [platformActOf, resetValues_boots, hboots]

/-- While the platform is not ready, its next scripted act decides how far it comes up (R203). -/
theorem applyReset_platform_of_boots {s : State} {act : PlatformAct} {acts : List PlatformAct}
    (hboots : s.env.boots = act :: acts) (hready : platformReady s.platform = false) :
    (applyReset s).platform = platformAfter act s.platform := by
  rw [applyReset_platform, hready, platformActOf_resetValues hboots]
  rfl

theorem applyReset_platform_of_ready {s : State} (hready : platformReady s.platform = true) :
    (applyReset s).platform = s.platform := by
  rw [applyReset_platform, if_pos hready]

/-- A platform that does nothing stays as it is, ready or not (R208). -/
theorem applyReset_platform_of_nothing {s : State} {acts : List PlatformAct} (hboots : s.env.boots = .nothing :: acts) :
    (applyReset s).platform = s.platform := by
  cases hready : platformReady s.platform with
  | true => exact applyReset_platform_of_ready hready
  | false =>
    rw [applyReset_platform_of_boots hboots hready]
    cases s.platform <;> rfl

theorem platformAfter_down (act : PlatformAct) :
    platformAfter act .down = .down ∨ platformAfter act .down = .clocked false false := by
  obtain ⟨-, hafter⟩ | ⟨l, b, hclocked, -⟩ := platformAfter_cases act .down
  · exact hafter
  · cases hclocked

theorem platformAfter_clocked (act : PlatformAct) (l b : Bool) :
    platformAfter act (.clocked l b) = .clocked l b ∨ platformAfter act (.clocked l b) = .clocked true b ∨
      platformAfter act (.clocked l b) = .clocked l true := by
  obtain ⟨hdown, -⟩ | ⟨l', b', hclocked, hafter⟩ := platformAfter_cases act (.clocked l b)
  · cases hdown
  · cases hclocked
    exact hafter

/-- A step in reset leaves the platform as it is, or provides one more of what R203 lists. -/
theorem applyReset_platform_cases (s : State) :
    (applyReset s).platform = s.platform ∨ ∃ act, (applyReset s).platform = platformAfter act s.platform := by
  cases hready : platformReady s.platform with
  | true => exact .inl (applyReset_platform_of_ready hready)
  | false => exact .inr ⟨_, by rw [applyReset_platform, hready]; rfl⟩

/-- Settles O41: RESET goes by `platformReady`, and the platform by `platformAfter` of its act. -/
theorem resetHeldUntilThePlatformIsReady : Obligations.ResetHeldUntilThePlatformIsReady := by
  intro s t hreset hstep
  rw [step_reset hreset] at hstep
  cases hstep
  refine ⟨?release, fun hready => ?ready, fun hdown => ?down, fun l b hclocked => ?clocked,
    fun acts => applyReset_platform_of_nothing, fun acts hboots hdown => ?clock, fun acts b hboots hclocked => ?latches,
    fun acts l hboots hclocked => ?bus⟩
  case release => rw [applyReset_resetPin, hreset, Bool.true_and, Bool.not_eq_false', platformReady_iff]
  case ready => rw [applyReset_platform_of_ready (platformReady_iff.mpr hready), hready]
  case down =>
    obtain hsame | ⟨act, hact⟩ := applyReset_platform_cases s
    · exact .inl (hsame.trans hdown)
    · rw [hact, hdown]
      exact platformAfter_down act
  case clocked =>
    obtain hsame | ⟨act, hact⟩ := applyReset_platform_cases s
    · exact .inl (hsame.trans hclocked)
    · rw [hact, hclocked]
      exact platformAfter_clocked act l b
  case clock =>
    rw [applyReset_platform_of_boots hboots (by rw [hdown]; rfl), hdown]
    rfl
  case latches =>
    rw [applyReset_platform_of_boots hboots (by rw [hclocked]; rfl), hclocked]
    rfl
  case bus =>
    rw [applyReset_platform_of_boots hboots (by rw [hclocked]; cases l <;> rfl), hclocked]
    rfl

end Sys2Proof.Machine
end

section
/-! PROOFS. The assembler (R88, R89): the tokens of a line with an operand, and the number a decimal spelling stands for. -/

namespace Sys2Proof.Machine

/-- A token: characters that neither end a token nor start a comment. -/
def isToken (tok : List Char) : Bool := tok ≠ [] && tok.all fun c => c ≠ ';' && c ≠ ' ' && c ≠ '\t'

theorem isToken_iff {tok : List Char} :
    isToken tok = true ↔ tok ≠ [] ∧ ∀ c ∈ tok, c ≠ ';' ∧ ¬ (c = ' ' ∨ c = '\t') := by
  simp [isToken, and_assoc]

theorem dropComment_append {tok : List Char} (htok : isToken tok = true) (rest : List Char) :
    dropComment (tok ++ rest) = tok ++ dropComment rest := by
  obtain ⟨-, hplain⟩ := isToken_iff.mp htok
  clear htok
  induction tok with
  | nil => rfl
  | cons c cs ih =>
    obtain ⟨⟨hc, -⟩, hcs⟩ := List.forall_mem_cons.mp hplain
    rw [List.cons_append, dropComment, if_neg hc, ih hcs, List.cons_append]

theorem tokensAux_append {tok : List Char} (htok : isToken tok = true) (rest : List Char) :
    tokensAux (tok ++ rest) = (tok ++ (tokensAux rest).1, (tokensAux rest).2) := by
  obtain ⟨-, hplain⟩ := isToken_iff.mp htok
  clear htok
  induction tok with
  | nil => rfl
  | cons c cs ih =>
    obtain ⟨⟨-, hblank⟩, hcs⟩ := List.forall_mem_cons.mp hplain
    rw [List.cons_append, tokensAux, if_neg hblank, ih hcs]
    rfl

theorem consToken_token {tok : List Char} (htok : isToken tok = true) (toks : List (List Char)) :
    consToken tok toks = tok :: toks := if_neg (isToken_iff.mp htok).1

/-- A line of two tokens with nothing but blanks or a comment after them. -/
theorem tokens_two {m tok rest : List Char} (hm : isToken m = true) (htok : isToken tok = true)
    (hrest : tokensAux (dropComment rest) = ([], [])) : tokens (m ++ ' ' :: (tok ++ rest)) = [m, tok] := by
  have hdrop : dropComment (m ++ ' ' :: (tok ++ rest)) = m ++ ' ' :: (tok ++ dropComment rest) := by
    rw [dropComment_append hm, dropComment, if_neg (by decide), dropComment_append htok]
  have hsecond : tokensAux (' ' :: (tok ++ dropComment rest)) = ([], [tok]) := by
    rw [tokensAux, if_pos (.inl rfl), tokensAux_append htok, hrest, List.append_nil, consToken_token htok]
  rw [tokens, hdrop, tokensAux_append hm, hsecond, List.append_nil, consToken_token hm]

/-- A line with an operand, its mnemonic in any case (R88). -/
theorem assembleLine_operand {start m tok rest : List Char} (hstart : start = m ++ [' ']) (hm : isToken m = true)
    (htok : isToken tok = true) (hrest : tokensAux (dropComment rest) = ([], [])) :
    assembleLine (start ++ tok ++ rest) = operandCommand (m.map Char.toUpper) tok := by
  have hline : start ++ tok ++ rest = m ++ ' ' :: (tok ++ rest) := by simp [hstart]
  rw [assembleLine, hline, tokens_two hm htok hrest]

/-- The decimal spelling of an operand. -/
def decimal (i : LightIdx) : List Char := (Nat.repr i.val).toList

theorem isToken_decimal (i : LightIdx) : isToken (decimal i) = true := by
  revert i
  decide

theorem numberValue_decimal (i : LightIdx) : numberValue (decimal i) = some i.val := by
  revert i
  decide

theorem operandWord_decimal (bound : Nat) (mk : LightIdx → Instr) (i : LightIdx) :
    operandWord bound mk (decimal i) = if i.val < bound then .word (encode (mk i)) else .error := by
  simp [operandWord, numberValue_decimal]

/-- A line of a mnemonic and an operand in decimal. -/
theorem assembleLine_decimal {start m : List Char} (hstart : start = m ++ [' ']) (hm : isToken m = true) (i : LightIdx) :
    assembleLine (start ++ decimal i) = operandCommand (m.map Char.toUpper) (decimal i) := by
  have hline := assembleLine_operand (rest := []) hstart hm (isToken_decimal i) rfl
  rwa [List.append_nil] at hline

theorem operandWord_setl (i : LightIdx) : operandWord 64 .setl (decimal i) = .word (encode (.setl i)) := by
  rw [operandWord_decimal, if_pos i.isLt]

/-- Settles O60: a mnemonic of R88 or R89 before a decimal operand; the other lines are evaluated. -/
theorem assemblerEmitsTheWordOfEachLine : Obligations.AssemblerEmitsTheWordOfEachLine := by
  refine ⟨fun i => ⟨?setl, ?base, ?prox, ?burst⟩, ?_⟩
  case setl =>
    exact (assembleLine_decimal (m := "SETL".toList) (by decide) (by decide) i).trans (operandWord_setl i)
  case base =>
    exact (assembleLine_operand (m := "base".toList) (by decide) (by decide) (isToken_decimal i)
      (by decide)).trans (operandWord_setl i)
  case prox =>
    exact (assembleLine_decimal (m := "PROX".toList) (by decide) (by decide) i).trans
      (operandWord_decimal 61 .prox i)
  case burst =>
    exact (assembleLine_decimal (m := "Burst".toList) (by decide) (by decide) i).trans
      (operandWord_decimal 61 .prox i)
  · decide

end Sys2Proof.Machine
end
